-- ==== Sys2Proof/Word.lean ====
section
/-! DEFINITION. The word types of the CHIP-8 core (00_scope.md R9, R11, R12). Every value is unsigned (R12). -/

namespace Sys2Proof

/-- A 4-bit field of an instruction word (00_scope.md R16 "Nibble"). -/
abbrev Nibble := BitVec 4

/-- The index of a general register V0 to VF (10_state.md R20): each of the 16 values names a register. -/
abbrev Reg := BitVec 4

/-- An 8-bit value: a general register, a timer or one memory element. -/
abbrev Byte := BitVec 8

/-- A 12-bit address, the instruction field nnn (30_encoding.md R72). -/
abbrev Address := BitVec 12

/-- A 16-bit value: an instruction word, PC, I or a call-stack entry. -/
abbrev Word := BitVec 16

/-- The value of a byte in an address computation: zext_16 (00_scope.md R12). -/
def zextByte (b : Byte) : Word := b.setWidth 16

/-- The value of the field nnn where it is used: zext_16, never scaled (30_encoding.md R72). -/
def zextAddress (a : Address) : Word := a.setWidth 16

end Sys2Proof
end

