-- ==== Sys2Proof/Syntax.lean ====
section
/-! DEFINITION. The instructions: one constructor per row of 30_encoding.md R74, in the table's order. Each carries the
operand fields of its format and nothing else (R71, R78). UNKNOWN is not an instruction (R74); see Decode.lean. -/

namespace Sys2Proof

inductive Instr where
  /-- 00E0 CLS -/
  | cls
  /-- 00EE RET -/
  | ret
  /-- 1nnn JP nnn -/
  | jp (nnn : Address)
  /-- 2nnn CALL nnn -/
  | call (nnn : Address)
  /-- 3xkk SE Vx, kk -/
  | seVxKK (x : Reg) (kk : Byte)
  /-- 4xkk SNE Vx, kk -/
  | sneVxKK (x : Reg) (kk : Byte)
  /-- 5xy0 SE Vx, Vy -/
  | seVxVy (x y : Reg)
  /-- 6xkk LD Vx, kk -/
  | ldVxKK (x : Reg) (kk : Byte)
  /-- 7xkk ADD Vx, kk -/
  | addVxKK (x : Reg) (kk : Byte)
  /-- 8xy0 LD Vx, Vy -/
  | ldVxVy (x y : Reg)
  /-- 8xy1 OR Vx, Vy -/
  | or (x y : Reg)
  /-- 8xy2 AND Vx, Vy -/
  | and (x y : Reg)
  /-- 8xy3 XOR Vx, Vy -/
  | xor (x y : Reg)
  /-- 8xy4 ADD Vx, Vy -/
  | addVxVy (x y : Reg)
  /-- 8xy5 SUB Vx, Vy -/
  | sub (x y : Reg)
  /-- 8xy6 SHR Vx: y is an encoded field the instruction does not read (R75) -/
  | shr (x y : Reg)
  /-- 8xy7 SUBN Vx, Vy -/
  | subn (x y : Reg)
  /-- 8xyE SHL Vx: y is an encoded field the instruction does not read (R75) -/
  | shl (x y : Reg)
  /-- 9xy0 SNE Vx, Vy -/
  | sneVxVy (x y : Reg)
  /-- Annn LD I, nnn -/
  | ldI (nnn : Address)
  /-- Bnnn JP V0, nnn -/
  | jpV0 (nnn : Address)
  /-- Cxkk RND Vx, kk -/
  | rnd (x : Reg) (kk : Byte)
  /-- Dxyn DRW Vx, Vy, n -/
  | drw (x y : Reg) (n : Nibble)
  /-- Ex9E SKP Vx -/
  | skp (x : Reg)
  /-- ExA1 SKNP Vx -/
  | sknp (x : Reg)
  /-- Fx07 LD Vx, DT -/
  | ldVxDT (x : Reg)
  /-- Fx0A LD Vx, K -/
  | ldVxK (x : Reg)
  /-- Fx15 LD DT, Vx -/
  | ldDTVx (x : Reg)
  /-- Fx18 LD ST, Vx -/
  | ldSTVx (x : Reg)
  /-- Fx1E ADD I, Vx -/
  | addIVx (x : Reg)
  /-- Fx29 LD F, Vx -/
  | ldFVx (x : Reg)
  /-- Fx33 LD B, Vx -/
  | ldBVx (x : Reg)
  /-- Fx55 LD [I], Vx -/
  | ldMemVx (x : Reg)
  /-- Fx65 LD Vx, [I] -/
  | ldVxMem (x : Reg)
deriving DecidableEq, Repr

end Sys2Proof
end

