-- ==== Sys2Proof/WellFormed.lean ====
section
/-! DEFINITION. Which operand fields an instruction carries, and that each is in its range (30_encoding.md R70 to R72,
R78). The operand types of Instr already have the fields' widths, so every term of Instr passes (Laws/PerInstr.lean); the
check is on the operands as plain numbers, where it can refuse. -/

namespace Sys2Proof

/-- The six operand formats (30_encoding.md R71). -/
inductive Format where
  | none | nnn | xkk | xy | xyn | x
deriving DecidableEq, Repr

/-- Operand fields as numbers, each absent or present (R70). -/
structure OperandFields where
  x   : Option Nat := Option.none
  y   : Option Nat := Option.none
  n   : Option Nat := Option.none
  kk  : Option Nat := Option.none
  nnn : Option Nat := Option.none
deriving DecidableEq, Repr

/-- A field is present exactly when the format uses it, and then below 2^width (R70 column "width"). -/
def fieldOk (used : Bool) (width : Nat) : Option Nat → Bool
  | Option.none => !used
  | some v => used && decide (v < 2 ^ width)

/-- "The decoder's output for each row carries exactly the fields its format uses" (R78), each within its width (R72). -/
def OperandFields.wf (f : Format) (o : OperandFields) : Bool :=
  fieldOk (f == .xkk || f == .xy || f == .xyn || f == .x) 4 o.x &&
  fieldOk (f == .xy || f == .xyn) 4 o.y &&
  fieldOk (f == .xyn) 4 o.n &&
  fieldOk (f == .xkk) 8 o.kk &&
  fieldOk (f == .nnn) 12 o.nnn

/-- The format column of R74. -/
def Instr.format : Instr → Format
  | .cls | .ret => .none
  | .jp _ | .call _ | .ldI _ | .jpV0 _ => .nnn
  | .seVxKK _ _ | .sneVxKK _ _ | .ldVxKK _ _ | .addVxKK _ _ | .rnd _ _ => .xkk
  | .seVxVy _ _ | .ldVxVy _ _ | .or _ _ | .and _ _ | .xor _ _ | .addVxVy _ _ | .sub _ _ | .shr _ _ | .subn _ _
  | .shl _ _ | .sneVxVy _ _ => .xy
  | .drw _ _ _ => .xyn
  | .skp _ | .sknp _ | .ldVxDT _ | .ldVxK _ | .ldDTVx _ | .ldSTVx _ | .addIVx _ | .ldFVx _ | .ldBVx _ | .ldMemVx _
  | .ldVxMem _ => .x

/-- The operands an instruction carries, as numbers. -/
def Instr.operands : Instr → OperandFields
  | .cls | .ret => {}
  | .jp a | .call a | .ldI a | .jpV0 a => { nnn := some a.toNat }
  | .seVxKK x k | .sneVxKK x k | .ldVxKK x k | .addVxKK x k | .rnd x k => { x := some x.toNat, kk := some k.toNat }
  | .seVxVy x y | .ldVxVy x y | .or x y | .and x y | .xor x y | .addVxVy x y | .sub x y | .shr x y | .subn x y
  | .shl x y | .sneVxVy x y => { x := some x.toNat, y := some y.toNat }
  | .drw x y n => { x := some x.toNat, y := some y.toNat, n := some n.toNat }
  | .skp x | .sknp x | .ldVxDT x | .ldVxK x | .ldDTVx x | .ldSTVx x | .addIVx x | .ldFVx x | .ldBVx x | .ldMemVx x
  | .ldVxMem x => { x := some x.toNat }

/-- The instruction's operands are those of its format, in range. -/
abbrev Instr.WellFormed (i : Instr) : Prop := i.operands.wf i.format = true

end Sys2Proof
end

