-- ==== Sys2Proof/Decode.lean ====
section
/-! DEFINITION. The decoder (30_encoding.md R70, R73 to R78), the encoder written from the same table, and the table's
mask and match columns as data. -/

namespace Sys2Proof

/-! ## Fields (R70) -/

/-- family = w[15:12] -/
def fieldFamily (w : Word) : Nibble := w.extractLsb' 12 4
/-- x = w[11:8] -/
def fieldX (w : Word) : Reg := w.extractLsb' 8 4
/-- y = w[7:4] -/
def fieldY (w : Word) : Reg := w.extractLsb' 4 4
/-- n = w[3:0] -/
def fieldN (w : Word) : Nibble := w.extractLsb' 0 4
/-- kk = w[7:0] -/
def fieldKK (w : Word) : Byte := w.extractLsb' 0 8
/-- nnn = w[11:0] -/
def fieldNNN (w : Word) : Address := w.extractLsb' 0 12

/-- The decoder's result: an instruction with its fields, or the rejection UNKNOWN with the whole word (R74, R78, D29). -/
inductive Decoded where
  | instr (i : Instr)
  | unknown (w : Word)
deriving DecidableEq, Repr

/-! ## The decoder (R73, R74, R75): every fixed nibble must match exactly -/

/-- Family 0x0: only 00E0 and 00EE (R75; 92 D6, log 11). -/
def decodeFamily0 (w : Word) : Decoded :=
  match w with
  | 0x00E0#16 => .instr .cls
  | 0x00EE#16 => .instr .ret
  | _ => .unknown w

/-- Family 0x8: the register operations, keyed on n. -/
def decodeFamily8 (w : Word) : Decoded :=
  match fieldN w with
  | 0x0#4 => .instr (.ldVxVy (fieldX w) (fieldY w))
  | 0x1#4 => .instr (.or (fieldX w) (fieldY w))
  | 0x2#4 => .instr (.and (fieldX w) (fieldY w))
  | 0x3#4 => .instr (.xor (fieldX w) (fieldY w))
  | 0x4#4 => .instr (.addVxVy (fieldX w) (fieldY w))
  | 0x5#4 => .instr (.sub (fieldX w) (fieldY w))
  | 0x6#4 => .instr (.shr (fieldX w) (fieldY w))
  | 0x7#4 => .instr (.subn (fieldX w) (fieldY w))
  | 0xE#4 => .instr (.shl (fieldX w) (fieldY w))
  | _ => .unknown w

/-- Family 0xE: the key skips, keyed on the low byte. -/
def decodeFamilyE (w : Word) : Decoded :=
  match fieldKK w with
  | 0x9E#8 => .instr (.skp (fieldX w))
  | 0xA1#8 => .instr (.sknp (fieldX w))
  | _ => .unknown w

/-- Family 0xF, keyed on the low byte. -/
def decodeFamilyF (w : Word) : Decoded :=
  match fieldKK w with
  | 0x07#8 => .instr (.ldVxDT (fieldX w))
  | 0x0A#8 => .instr (.ldVxK (fieldX w))
  | 0x15#8 => .instr (.ldDTVx (fieldX w))
  | 0x18#8 => .instr (.ldSTVx (fieldX w))
  | 0x1E#8 => .instr (.addIVx (fieldX w))
  | 0x29#8 => .instr (.ldFVx (fieldX w))
  | 0x33#8 => .instr (.ldBVx (fieldX w))
  | 0x55#8 => .instr (.ldMemVx (fieldX w))
  | 0x65#8 => .instr (.ldVxMem (fieldX w))
  | _ => .unknown w

/-- Families 0x5 and 0x9 hold one instruction each, whose n is 0. -/
def decodeXY0 (ins : Reg → Reg → Instr) (w : Word) : Decoded :=
  match fieldN w with
  | 0x0#4 => .instr (ins (fieldX w) (fieldY w))
  | _ => .unknown w

/-- The decoder: total, with exactly one result for each of the 65536 words (R73). -/
def decode (w : Word) : Decoded :=
  match fieldFamily w with
  | 0x0#4 => decodeFamily0 w
  | 0x1#4 => .instr (.jp (fieldNNN w))
  | 0x2#4 => .instr (.call (fieldNNN w))
  | 0x3#4 => .instr (.seVxKK (fieldX w) (fieldKK w))
  | 0x4#4 => .instr (.sneVxKK (fieldX w) (fieldKK w))
  | 0x5#4 => decodeXY0 .seVxVy w
  | 0x6#4 => .instr (.ldVxKK (fieldX w) (fieldKK w))
  | 0x7#4 => .instr (.addVxKK (fieldX w) (fieldKK w))
  | 0x8#4 => decodeFamily8 w
  | 0x9#4 => decodeXY0 .sneVxVy w
  | 0xA#4 => .instr (.ldI (fieldNNN w))
  | 0xB#4 => .instr (.jpV0 (fieldNNN w))
  | 0xC#4 => .instr (.rnd (fieldX w) (fieldKK w))
  | 0xD#4 => .instr (.drw (fieldX w) (fieldY w) (fieldN w))
  | 0xE#4 => decodeFamilyE w
  | 0xF#4 => decodeFamilyF w
  | _ => .unknown w

/-! ## The encoder (R71, R74) -/

/-- Format NNN: a family nibble and a 12-bit address. -/
def encodeNNN (family : Nibble) (nnn : Address) : Word := family ++ nnn
/-- Formats XKK and X: a family nibble, a register and a byte (an operand, or a function code). -/
def encodeXKK (family : Nibble) (x : Reg) (kk : Byte) : Word := family ++ x ++ kk
/-- Formats XY and XYN: a family nibble, two registers and a nibble (a function code, or an operand). -/
def encodeXYN (family : Nibble) (x y : Reg) (n : Nibble) : Word := family ++ x ++ y ++ n

/-- The word of an instruction, from the pattern column of R74. -/
def encode : Instr → Word
  | .cls => 0x00E0#16
  | .ret => 0x00EE#16
  | .jp nnn => encodeNNN 0x1 nnn
  | .call nnn => encodeNNN 0x2 nnn
  | .seVxKK x kk => encodeXKK 0x3 x kk
  | .sneVxKK x kk => encodeXKK 0x4 x kk
  | .seVxVy x y => encodeXYN 0x5 x y 0x0
  | .ldVxKK x kk => encodeXKK 0x6 x kk
  | .addVxKK x kk => encodeXKK 0x7 x kk
  | .ldVxVy x y => encodeXYN 0x8 x y 0x0
  | .or x y => encodeXYN 0x8 x y 0x1
  | .and x y => encodeXYN 0x8 x y 0x2
  | .xor x y => encodeXYN 0x8 x y 0x3
  | .addVxVy x y => encodeXYN 0x8 x y 0x4
  | .sub x y => encodeXYN 0x8 x y 0x5
  | .shr x y => encodeXYN 0x8 x y 0x6
  | .subn x y => encodeXYN 0x8 x y 0x7
  | .shl x y => encodeXYN 0x8 x y 0xE
  | .sneVxVy x y => encodeXYN 0x9 x y 0x0
  | .ldI nnn => encodeNNN 0xA nnn
  | .jpV0 nnn => encodeNNN 0xB nnn
  | .rnd x kk => encodeXKK 0xC x kk
  | .drw x y n => encodeXYN 0xD x y n
  | .skp x => encodeXKK 0xE x 0x9E
  | .sknp x => encodeXKK 0xE x 0xA1
  | .ldVxDT x => encodeXKK 0xF x 0x07
  | .ldVxK x => encodeXKK 0xF x 0x0A
  | .ldDTVx x => encodeXKK 0xF x 0x15
  | .ldSTVx x => encodeXKK 0xF x 0x18
  | .addIVx x => encodeXKK 0xF x 0x1E
  | .ldFVx x => encodeXKK 0xF x 0x29
  | .ldBVx x => encodeXKK 0xF x 0x33
  | .ldMemVx x => encodeXKK 0xF x 0x55
  | .ldVxMem x => encodeXKK 0xF x 0x65

/-! ## The table's mask and match columns (R74), beside the decoder -/

/-- The mnemonic column of R74. -/
def Instr.mnemonic : Instr → String
  | .cls => "CLS"
  | .ret => "RET"
  | .jp _ => "JP"
  | .call _ => "CALL"
  | .seVxKK _ _ => "SE_VxKK"
  | .sneVxKK _ _ => "SNE_VxKK"
  | .seVxVy _ _ => "SE_VxVy"
  | .ldVxKK _ _ => "LD_VxKK"
  | .addVxKK _ _ => "ADD_VxKK"
  | .ldVxVy _ _ => "LD_VxVy"
  | .or _ _ => "OR"
  | .and _ _ => "AND"
  | .xor _ _ => "XOR"
  | .addVxVy _ _ => "ADD_VxVy"
  | .sub _ _ => "SUB"
  | .shr _ _ => "SHR"
  | .subn _ _ => "SUBN"
  | .shl _ _ => "SHL"
  | .sneVxVy _ _ => "SNE_VxVy"
  | .ldI _ => "LD_I"
  | .jpV0 _ => "JP_V0"
  | .rnd _ _ => "RND"
  | .drw _ _ _ => "DRW"
  | .skp _ => "SKP"
  | .sknp _ => "SKNP"
  | .ldVxDT _ => "LD_Vx_DT"
  | .ldVxK _ => "LD_Vx_K"
  | .ldDTVx _ => "LD_DT_Vx"
  | .ldSTVx _ => "LD_ST_Vx"
  | .addIVx _ => "ADD_I_Vx"
  | .ldFVx _ => "LD_F_Vx"
  | .ldBVx _ => "LD_B_Vx"
  | .ldMemVx _ => "LD_MEM_Vx"
  | .ldVxMem _ => "LD_Vx_MEM"

/-- One row of R74: a word belongs to it when `w &&& mask = value`. -/
structure OpcodeRow where
  mnemonic : String
  mask     : Word
  value    : Word
deriving DecidableEq, Repr

/-- The word's fixed nibbles all equal the row's (R74). -/
abbrev OpcodeRow.Matches (r : OpcodeRow) (w : Word) : Prop := w &&& r.mask = r.value

/-- Rows 1 to 9 and 19 to 23 of R74: families 0 to 7, 9 and A to D. -/
def opcodeRowsOfFamilies : List OpcodeRow :=
  [⟨"CLS", 0xFFFF, 0x00E0⟩, ⟨"RET", 0xFFFF, 0x00EE⟩, ⟨"JP", 0xF000, 0x1000⟩, ⟨"CALL", 0xF000, 0x2000⟩,
   ⟨"SE_VxKK", 0xF000, 0x3000⟩, ⟨"SNE_VxKK", 0xF000, 0x4000⟩, ⟨"SE_VxVy", 0xF00F, 0x5000⟩,
   ⟨"LD_VxKK", 0xF000, 0x6000⟩, ⟨"ADD_VxKK", 0xF000, 0x7000⟩, ⟨"SNE_VxVy", 0xF00F, 0x9000⟩,
   ⟨"LD_I", 0xF000, 0xA000⟩, ⟨"JP_V0", 0xF000, 0xB000⟩, ⟨"RND", 0xF000, 0xC000⟩, ⟨"DRW", 0xF000, 0xD000⟩]

/-- Rows 10 to 18 of R74: family 8. -/
def opcodeRowsOfFamily8 : List OpcodeRow :=
  [⟨"LD_VxVy", 0xF00F, 0x8000⟩, ⟨"OR", 0xF00F, 0x8001⟩, ⟨"AND", 0xF00F, 0x8002⟩, ⟨"XOR", 0xF00F, 0x8003⟩,
   ⟨"ADD_VxVy", 0xF00F, 0x8004⟩, ⟨"SUB", 0xF00F, 0x8005⟩, ⟨"SHR", 0xF00F, 0x8006⟩, ⟨"SUBN", 0xF00F, 0x8007⟩,
   ⟨"SHL", 0xF00F, 0x800E⟩]

/-- Rows 24 to 34 of R74: families E and F. -/
def opcodeRowsOfFamiliesEF : List OpcodeRow :=
  [⟨"SKP", 0xF0FF, 0xE09E⟩, ⟨"SKNP", 0xF0FF, 0xE0A1⟩, ⟨"LD_Vx_DT", 0xF0FF, 0xF007⟩, ⟨"LD_Vx_K", 0xF0FF, 0xF00A⟩,
   ⟨"LD_DT_Vx", 0xF0FF, 0xF015⟩, ⟨"LD_ST_Vx", 0xF0FF, 0xF018⟩, ⟨"ADD_I_Vx", 0xF0FF, 0xF01E⟩,
   ⟨"LD_F_Vx", 0xF0FF, 0xF029⟩, ⟨"LD_B_Vx", 0xF0FF, 0xF033⟩, ⟨"LD_MEM_Vx", 0xF0FF, 0xF055⟩,
   ⟨"LD_Vx_MEM", 0xF0FF, 0xF065⟩]

/-- The 34 rows. -/
def opcodeTable : List OpcodeRow := opcodeRowsOfFamilies ++ opcodeRowsOfFamily8 ++ opcodeRowsOfFamiliesEF

/-! ## Words and bytes -/

/-- A word as memory holds it, the high byte at the lower address (20_memory.md R54). -/
def wordBytes (w : Word) : Byte × Byte := (w.extractLsb' 8 8, w.extractLsb' 0 8)

/-- The word made of two consecutive bytes (20_memory.md R54, R55). -/
def bytesWord (first second : Byte) : Word := first ++ second

/-- The instruction word whose low `nbits` bits are those of `w`, every other bit 0. -/
def tableWord (nbits w : Nat) : Word := BitVec.ofNat 16 (w % 2 ^ nbits)

/-- The decoder on a word of the opcode table, through the bytes the hardware stores it as. -/
def decodeTableWord (nbits w : Nat) : Option Instr :=
  let b := wordBytes (tableWord nbits w)
  match decode (bytesWord b.1 b.2) with
  | .instr i => some i
  | .unknown _ => none

end Sys2Proof
end

