-- ==== Sys2Proof/Config.lean ====
section
/-! DEFINITION. The machine's free values: RAND of 00_scope.md R10, and the held keys (10_state.md R34, R41, R42). The
FONT parameter of R10 is a field of State; the fixed parameters of R9 stand as numbers where they are used. -/

namespace Sys2Proof

/-- FREE VALUE (DESIGN CHOICE, safe: log 1). What the input `key_held` shows at the n-th free sample: any pattern of held
keys at each one (10_state.md R41, 92 D18, 93 U2). It has no body, so no proof can see a value of it. -/
opaque Config.keyHeldInput : Nat → BitVec 16

/-- FREE VALUE (DESIGN CHOICE, safe: log 1). What the input `rnd` shows at the n-th free sample: "any of the 256 values,
with no law between draws" (10_state.md R42, 92 D17, 93 U1). It has no body. -/
opaque Config.rndInput : Nat → Byte

end Sys2Proof
end

