-- ==== Sys2Proof/Machine/Font.lean ====
section
/-! DEFINITION. The FONT parameter (00_scope.md R10): the 80 bytes at 0x050 after reset, and its default value. -/

namespace Sys2Proof.Machine

/-- The parameter FONT: 80 bytes, any at all (00_scope.md R10, 93 U4). -/
abbrev Font := Vector Byte 80

/-- PRESUMED (92 D11, 93 G2; log 4, unsafe). The default bytes of D11, "from general knowledge, not in source": five bytes
for each digit 0 to F, in order. -/
def fontTable : List Byte :=
  [0xF0, 0x90, 0x90, 0x90, 0xF0,   0x20, 0x60, 0x20, 0x20, 0x70,
   0xF0, 0x10, 0xF0, 0x80, 0xF0,   0xF0, 0x10, 0xF0, 0x10, 0xF0] ++
  [0x90, 0x90, 0xF0, 0x10, 0x10,   0xF0, 0x80, 0xF0, 0x10, 0xF0,
   0xF0, 0x80, 0xF0, 0x90, 0xF0,   0xF0, 0x10, 0x20, 0x40, 0x40] ++
  [0xF0, 0x90, 0xF0, 0x90, 0xF0,   0xF0, 0x90, 0xF0, 0x10, 0xF0,
   0xF0, 0x90, 0xF0, 0x90, 0x90,   0xE0, 0x90, 0xE0, 0x90, 0xE0] ++
  [0xF0, 0x80, 0x80, 0x80, 0xF0,   0xE0, 0x90, 0x90, 0x90, 0xE0,
   0xF0, 0x80, 0xF0, 0x80, 0xF0,   0xF0, 0x80, 0xF0, 0x80, 0x80]

/-- The default FONT (92 D11): the one State.reset takes. No other definition names it. -/
def defaultFont : Font := ⟨fontTable.toArray, rfl⟩

end Sys2Proof.Machine
end

