-- ==== Sys2Proof/Machine/State.lean ====
section
/-! DEFINITION. The state of the block (10_state.md, 20_memory.md), its reports, the environment's side of the command
port, and reset. -/

namespace Sys2Proof.Machine

/-- Why a step stops with a fault: there is no reason. "The block raises no exception" (60_exceptions.md R210): no
constructor, so no meaning can answer with a fault (log 17, safe). -/
inductive Fault where
deriving DecidableEq, Repr

/-- Why an instruction is given no meaning. -/
inductive Refusal where
  /-- Raised only by an arm of exec for an instruction without a meaning: no arm of this model raises it. Safe. -/
  | notModelled (mnemonic : String)
deriving DecidableEq, Repr

/-- What the environment drives on the block's inputs during one STEP (10_state.md R37, R41, R42). -/
structure Inputs where
  /-- Input key_held[15:0]: bit k is 1 when logical key k is held (R41). -/
  keyHeld : BitVec 16
  /-- Input rnd[7:0]: the byte RND uses (R42). -/
  rnd     : Byte
deriving DecidableEq, Repr

/-- The commands of the command port with their operands (10_state.md R37). -/
inductive Command where
  | reset
  | load (data : List Byte)
  /-- `some p`: the inputs are p during this STEP. `none`: the environment leaves them open, so each is a free value. -/
  | step (inputs : Option Inputs)
  | tick
  /-- The delivered key is 4 bits wide (44_keys_timers.md R200, 92 D15). -/
  | key (k : Nibble)
deriving DecidableEq, Repr

/-- The report outputs that hold their value between commands. No rule reads them (10_state.md R44; log 7). -/
structure Outputs where
  /-- load_ok: the result of the last LOAD (R38). -/
  loadOk     : Bool
  /-- audio_valid: 1 after a TICK, 0 after any other command (R43). -/
  audioValid : Bool
  /-- audio_pause: the last TICK found ST at 0 (R43). -/
  audioPause : Bool
  /-- decode_miss: the last command was a STEP of an UNKNOWN word (R44). -/
  decodeMiss : Bool
  /-- miss_word: the word of that STEP (R44; log 6). -/
  missWord   : Word
deriving DecidableEq, Repr

/-- THE MODEL'S OWN (logs 1 and 2), not state of the block (10_state.md R34): the environment, as plain data. -/
structure Environment where
  /-- The inputs as the running STEP samples them. -/
  inputs : Inputs
  /-- How many free samples have been taken; the next one is `Config.keyHeldInput draws` and `Config.rndInput draws`. -/
  draws  : Nat
  /-- The commands the environment issues next, oldest first. Empty: it issues STEP with free inputs. -/
  script : List Command
deriving DecidableEq, Repr

/-- Memory as (address, byte) pairs in one canonical form, `Memory.wf` of Ops.lean (log 14). -/
abbrev Memory := List Host.Cell

/-- The framebuffer as the render port numbers it: bit r * 64 + c is cell FB[c, r] (10_state.md R33, R39; log 13). -/
abbrev Framebuffer := BitVec 2048

/-- Everything the spec gives the machine (10_state.md R20 to R45, 20_memory.md R50), its parameter FONT, and the
environment. -/
structure State where
  /-- V0 to VF (R20). -/
  v     : Vector Byte 16
  /-- The address register, 16 bits, never masked when written (R26). -/
  i     : Word
  /-- The program counter; bits 15:12 are 0 in every reachable state (R23, R24). -/
  pc    : Word
  /-- The call stack (R27). -/
  stack : Vector Word 16
  /-- The number of entries in use, 0 to 16 (R27, R28; log 12). -/
  sp    : Fin 17
  /-- The delay timer (R29). -/
  dt    : Byte
  /-- The sound timer (R30). -/
  st    : Byte
  /-- The wait-key latch, the control FSM's state: `none` is RUN and `some x` is WAIT_KEY(x) (R32, 92 D28). -/
  latch : Option Reg
  /-- The framebuffer (R33). -/
  fb    : Framebuffer
  /-- The 4096 bytes of memory (20_memory.md R50). -/
  mem   : Memory
  /-- The parameter FONT (00_scope.md R10), not state of the block (10_state.md R34): what RESET puts at 0x050 to 0x09F. Any
  value; no step changes it (log 4). -/
  font  : Font
  /-- The report outputs. -/
  out   : Outputs
  /-- The environment. -/
  env   : Environment
deriving DecidableEq, Repr

/-- The reports after RESET: load_ok, audio_valid and decode_miss are 0 (R240). DESIGN CHOICE, unsafe (log 7): audio_pause
and miss_word, for which the spec gives no reset value, are 0. -/
def Outputs.reset : Outputs :=
  { loadOk := false, audioValid := false, audioPause := false, decodeMiss := false, missWord := 0x0000 }

/-- DESIGN CHOICE (logs 1 and 2): nothing sampled, nothing scripted. No statement rests on the two input values. -/
def Environment.reset : Environment :=
  { inputs := { keyHeld := 0x0000, rnd := 0x00 }, draws := 0, script := [] }

/-- The machine with the parameter FONT = `font` right after RESET (10_state.md R36, 70_reset_and_hazards.md R240, R241).
Memory lists nothing: an unlisted address reads as its reset contents. All values but PC and memory are the spec's decision
D12 (log 5). -/
def State.resetWith (font : Font) : State :=
  { v := Vector.replicate 16 0x00
    i := 0x0000
    pc := 0x200
    stack := Vector.replicate 16 0x0000
    sp := 0
    dt := 0x00
    st := 0x00
    latch := none
    fb := 0
    mem := []
    font := font
    out := Outputs.reset
    env := Environment.reset }

/-- The machine with the default FONT right after RESET (92 D11; log 4). -/
def State.reset : State := State.resetWith defaultFont

end Sys2Proof.Machine
end

