-- ==== Sys2Proof/Machine/Ops.lean ====
section
/-! DEFINITION. The named operations over memory, registers, the call stack and the framebuffer, written once. The block
has no exception to take and none to return from (60_exceptions.md R210, R215, R216), so no operation here does that; what
stands in their place (R211) is in the meanings and in Cycle.lean. -/

namespace Sys2Proof.Machine

/-! ## Memory (20_memory.md) -/

/-- What an address that memory does not list reads as: its contents after RESET, given the parameter FONT: FONT at
0x050 to 0x09F, 0x00 elsewhere (20_memory.md R58, 10_state.md R36; 00_scope.md R9 FONT_BASE, FONT_END). -/
def Memory.unlisted (font : Font) (a : Nat) : Byte :=
  if h : 0x050 ≤ a ∧ a < 0x0A0 then font[a - 0x050]'(by omega) else 0x00

/-- The byte at an address already reduced modulo 4096. -/
def Memory.read (font : Font) : Memory → Nat → Byte
  | [], a => Memory.unlisted font a
  | (b, x) :: m, a => if a = b then x else Memory.read font m a

/-- Put a byte at an address already reduced modulo 4096, keeping the canonical form: the address order, and no entry
equal to what an unlisted address reads as. -/
def Memory.write (font : Font) : Memory → Nat → Byte → Memory
  | [], a, x => if x = Memory.unlisted font a then [] else [(a, x)]
  | (b, y) :: m, a, x =>
    if a < b then (if x = Memory.unlisted font a then (b, y) :: m else (a, x) :: (b, y) :: m)
    else if a = b then (if x = Memory.unlisted font a then m else (a, x) :: m)
    else (b, y) :: Memory.write font m a x

/-- The canonical form (log 14): addresses strictly rising and below 4096, no entry equal to its unlisted byte. -/
abbrev Memory.wf (font : Font) (m : Memory) : Prop :=
  m.Pairwise (fun p q => p.1 < q.1) ∧ ∀ p ∈ m, p.1 < 4096 ∧ p.2 ≠ Memory.unlisted font p.1

/-- The address the block reaches: every address is taken modulo 4096 (20_memory.md R52, 92 D2; log 10). -/
def maskAddress (a : Nat) : Nat := a % 4096

/-- MemRead(a, 1) (00_scope.md R13, 20_memory.md R52). -/
def State.readByte (s : State) (a : Nat) : Byte := Memory.read s.font s.mem (maskAddress a)

/-- MemWrite(a, 1, v) (00_scope.md R13, 20_memory.md R52). -/
def State.writeByte (s : State) (a : Nat) (x : Byte) : State :=
  { s with mem := Memory.write s.font s.mem (maskAddress a) x }

/-- Fetch(PC): two bytes, the first one high (20_memory.md R55). At 0xFFF the second comes from 0x000 (92 D3). -/
def State.fetch (s : State) : Word :=
  bytesWord (s.readByte s.pc.toNat) (s.readByte (s.pc.toNat + 1))

/-- `data` copied to rising addresses from `a` on (70_reset_and_hazards.md R242). -/
def State.writeBytes : State → Nat → List Byte → State
  | s, _, [] => s
  | s, a, b :: data => State.writeBytes (s.writeByte a b) (a + 1) data

/-! ## Registers (10_state.md) -/

/-- V[x] (00_scope.md R13). -/
def State.getV (s : State) (x : Reg) : Byte := s.v[x.toNat]'x.isLt

/-- V[x] <- b. No register is hardwired (10_state.md R20). -/
def State.setV (s : State) (x : Reg) (b : Byte) : State := { s with v := s.v.set x.toNat b x.isLt }

/-- The index of VF (10_state.md R21). -/
abbrev regF : Reg := 0xF#4

/-- I <- a, not masked to 12 bits (10_state.md R26). -/
def State.setI (s : State) (a : Word) : State := { s with i := a }

/-- PC <- a, masked to 12 bits as every assignment to PC is (10_state.md R24). -/
def State.setPc (s : State) (a : Word) : State := { s with pc := a &&& 0x0FFF#16 }

/-- PC <- PC + 2: the advance of a STEP (40_control_flow.md R100) and the skip (R103). -/
def State.advance (s : State) : State := s.setPc (s.pc + 2)

/-- Skip() when the condition holds (40_control_flow.md R103). -/
def State.skipIf (s : State) (c : Bool) : State := if c then s.advance else s

/-- DT <- b (44_keys_timers.md R195). -/
def State.setDt (s : State) (b : Byte) : State := { s with dt := b }

/-- ST <- b (44_keys_timers.md R196). -/
def State.setSt (s : State) (b : Byte) : State := { s with st := b }

/-- LATCH <- l (44_keys_timers.md R197, R199). -/
def State.setLatch (s : State) (l : Option Reg) : State := { s with latch := l }

/-- FB <- f. -/
def State.setFb (s : State) (f : Framebuffer) : State := { s with fb := f }

/-! ## The call stack (10_state.md R27, R28) -/

/-- STACK[SP] <- a, then SP <- SP + 1; a full stack is left as it is (40_control_flow.md R106). -/
def State.push (s : State) (a : Word) : State :=
  if h : s.sp.val < 16 then { s with stack := s.stack.set s.sp.val a h, sp := ⟨s.sp.val + 1, Nat.succ_lt_succ h⟩ } else s

/-- SP <- SP - 1, then PC <- STACK[SP], masked; an empty stack leaves everything (40_control_flow.md R104). The entry is
not cleared. -/
def State.popPc (s : State) : State :=
  if _h : s.sp.val = 0 then s
  else State.setPc { s with sp := ⟨s.sp.val - 1, by omega⟩ } (s.stack[s.sp.val - 1]'(by omega))

/-! ## Data addresses and block copies (42_index_memory.md R164 to R166) -/

/-- EA(k) = (I + k) mod 4096, the only addressing mode for data (R166). -/
def State.effectiveAddress (s : State) (k : Nat) : Nat := maskAddress (s.i.toNat + k)

/-- The registers V[0] to V[k-1] stored to EA(0), EA(1), …, in rising order (R164). -/
def State.storeRegs (s : State) : Nat → State
  | 0 => s
  | k + 1 => (s.storeRegs k).writeByte (s.effectiveAddress k) (s.getV (BitVec.ofNat 4 k))

/-- The registers V[0] to V[k-1] loaded from EA(0), EA(1), …, in rising order (R165). -/
def State.loadRegs (s : State) : Nat → State
  | 0 => s
  | k + 1 => (s.loadRegs k).setV (BitVec.ofNat 4 k) (s.readByte (s.effectiveAddress k))

/-! ## The framebuffer and the pixel datapath (43_display.md) -/

/-- The number of cell FB[c, r] in the row-major grid (10_state.md R33). -/
def cellIndex (c r : Nat) : Nat := r * 64 + c

/-- FB[c, r] (10_state.md R33). -/
def cellAt (f : Framebuffer) (c r : Nat) : Bool := f.getLsbD (cellIndex c r)

/-- FB[c, r] <- FB[c, r] XOR s, the write of the pixel datapath (43_display.md R182). -/
def xorCell (f : Framebuffer) (c r : Nat) (s : Bool) : Framebuffer :=
  if s then f ^^^ BitVec.twoPow 2048 (cellIndex c r) else f

/-- A draw under way: the framebuffer and the collision collected so far (43_display.md R181). -/
structure Drawing where
  fb  : Framebuffer
  hit : Bool
deriving DecidableEq, Repr

/-- One cell: `new = old XOR s`, `hit = old AND s`, the hits collected by OR (43_display.md R182). -/
def drawPixel (d : Drawing) (c r : Nat) (s : Bool) : Drawing :=
  { fb := xorCell d.fb c r s, hit := d.hit || (cellAt d.fb c r && s) }

/-- The sprite bit of column `col`: column 0 is bit 7 (92 D10, 93 G3; log 18, unsafe). -/
def spriteBit (b : Byte) (col : Nat) : Bool := b.getLsbD (7 - col)

/-- The column a sprite's column `col` falls on: coordinates wrap, sprites are not clipped (43_display.md R181). -/
def drawColumn (x0 : Byte) (col : Nat) : Nat := (x0.toNat + col) % 64

/-- The row a sprite's row `row` falls on (43_display.md R181). -/
def drawLine (y0 : Byte) (row : Nat) : Nat := (y0.toNat + row) % 32

/-- Columns 0 to k-1 of one sprite row `b`. -/
def drawColumns (d : Drawing) (x0 : Byte) (r : Nat) (b : Byte) : Nat → Drawing
  | 0 => d
  | k + 1 => drawPixel (drawColumns d x0 r b k) (drawColumn x0 k) r (spriteBit b k)

/-- Rows 0 to k-1 of the sprite whose row `row` is the byte `sprite row` (43_display.md R181). -/
def drawRows (d : Drawing) (x0 y0 : Byte) (sprite : Nat → Byte) : Nat → Drawing
  | 0 => d
  | k + 1 => drawColumns (drawRows d x0 y0 sprite k) x0 (drawLine y0 k) (sprite k) 8

/-! ## Reports (10_state.md R43, R44) -/

/-- audio_valid and decode_miss are 0 after every command but the ones that raise them (R43, R44). -/
def Outputs.quiet (o : Outputs) : Outputs := { o with audioValid := false, decodeMiss := false }

/-- The state with the reports `o`. -/
def State.setOut (s : State) (o : Outputs) : State := { s with out := o }

/-- The state with the environment `e`. -/
def State.setEnv (s : State) (e : Environment) : State := { s with env := e }

end Sys2Proof.Machine
end

