-- ==== Sys2Proof/Machine/Commands.lean ====
section
/-! DEFINITION. The commands of the command port that execute no instruction: RESET, LOAD, TICK, KEY. STEP stands in
Cycle.lean. -/

namespace Sys2Proof.Machine

/-- RESET (70_reset_and_hazards.md R240): every piece of the block's state at its reset value, memory by the machine's own
FONT. The environment is not the block's. Re-issued, it is "equivalent to discarding the machine and creating a new one" (92 D23; log 7). -/
def State.resetCommand (s : State) : State := (State.resetWith s.font).setEnv s.env

/-- LOAD(data) (70_reset_and_hazards.md R242): rejected whole above MAX_LOAD = 3584 bytes, else
copied from PROG_BASE = 0x200 on (00_scope.md R9). -/
def State.loadCommand (s : State) (data : List Byte) : State :=
  if data.length > 3584 then s.setOut { s.out.quiet with loadOk := false }
  else (s.writeBytes 0x200 data).setOut { s.out.quiet with loadOk := true }

/-- One timer's decrement: never below 0 (44_keys_timers.md R203). -/
def countDown (t : Byte) : Byte := if t > 0 then t - 1 else t

/-- TICK (44_keys_timers.md R203): both timers count down, and one audio notification, ST taken after the decrement. -/
def State.tickCommand (s : State) : State :=
  ((s.setDt (countDown s.dt)).setSt (countDown s.st)).setOut
    { s.out.quiet with audioValid := true, audioPause := countDown s.st == 0 }

/-- KEY(k) (44_keys_timers.md R199, R200): the key goes to the waiting register; ignored where none waits (92 D14;
log 15). -/
def State.keyCommand (s : State) (k : Nibble) : State :=
  match s.latch with
  | some x => ((s.setV x (k.setWidth 8)).setLatch none).setOut s.out.quiet
  | none => s.setOut s.out.quiet

end Sys2Proof.Machine
end

