-- ==== Sys2Proof/Machine/Operands.lean ====
section
/-! DEFINITION. The operand forms of the instructions beside EA(k) of Ops.lean: block lengths, key numbers, glyphs, decimal
digits and the sampled inputs. -/

namespace Sys2Proof.Machine

/-- The number of registers of a block copy: V0 to Vx, x + 1 of them (42_index_memory.md R164, R165). -/
def blockLength (x : Reg) : Nat := x.toNat + 1

/-- The low nibble of Vx: the key SKP and SKNP ask about (44_keys_timers.md R192; log 16), the digit of LD F
(42_index_memory.md R162). -/
def lowNibble (b : Byte) : Nibble := b.extractLsb' 0 4

/-- 0x050 + digit * 5: the address of a digit's glyph (42_index_memory.md R162). -/
def glyphAddress (digit : Nibble) : Word := 0x050#16 + digit.setWidth 16 * 5#16

/-- `v / 100` (42_index_memory.md R163). -/
def hundredsDigit (v : Byte) : Byte := v / 100#8
/-- `(v / 10) mod 10` (42_index_memory.md R163). -/
def tensDigit (v : Byte) : Byte := v / 10#8 % 10#8
/-- `v mod 10` (42_index_memory.md R163). -/
def unitsDigit (v : Byte) : Byte := v % 10#8

/-- KeyHeld(k) = key_held[k] (10_state.md R41). -/
def State.keyHeld (s : State) (k : Nibble) : Bool := s.env.inputs.keyHeld.getLsbD k.toNat

/-- RandByte() = rnd (10_state.md R42). -/
def State.randByte (s : State) : Byte := s.env.inputs.rnd

/-- The instructions whose STEP samples an input: SKP and SKNP key_held, RND rnd, and no other
(10_state.md R41, R42; 40_control_flow.md R115). -/
def samplesInput : Instr → Bool
  | .skp _ | .sknp _ | .rnd _ _ => true
  | .cls | .ret | .jp _ | .call _ | .seVxKK _ _ | .sneVxKK _ _ | .seVxVy _ _ | .ldVxKK _ _ | .addVxKK _ _ | .ldVxVy _ _
  | .or _ _ | .and _ _ | .xor _ _ | .addVxVy _ _ | .sub _ _ | .shr _ _ | .subn _ _ | .shl _ _ | .sneVxVy _ _ | .ldI _
  | .jpV0 _ | .drw _ _ _ | .ldVxDT _ | .ldVxK _ | .ldDTVx _ | .ldSTVx _ | .addIVx _ | .ldFVx _ | .ldBVx _ | .ldMemVx _
  | .ldVxMem _ => false

/-- The inputs during a STEP of `i` (log 1): those the environment gives, or, where it leaves them open and the
instruction samples one, the next free values. -/
def State.sample (s : State) (given : Option Inputs) (i : Instr) : State :=
  match given with
  | some p => s.setEnv { s.env with inputs := p }
  | none =>
    if samplesInput i then
      s.setEnv { s.env with
        inputs := { keyHeld := Config.keyHeldInput s.env.draws, rnd := Config.rndInput s.env.draws }
        draws := s.env.draws + 1 }
    else s

end Sys2Proof.Machine
end

