-- ==== Sys2Proof/Machine/ControlFlow.lean ====
section
/-! DEFINITION. Control transfer (40_control_flow.md R103 to R111). PC already holds the address after the instruction
(10_state.md R25). -/

namespace Sys2Proof.Machine

/-- RET (R104). -/
def execRet (s : State) : Host.Outcome State Fault Refusal := .next s.popPc

/-- JP nnn (R105). -/
def execJp (nnn : Address) (s : State) : Host.Outcome State Fault Refusal := .next (s.setPc (zextAddress nnn))

/-- CALL nnn (R106): nothing happens when SP = 16. -/
def execCall (nnn : Address) (s : State) : Host.Outcome State Fault Refusal :=
  if s.sp.val < 16 then .next ((s.push s.pc).setPc (zextAddress nnn)) else .next s

/-- SE Vx, kk (R107). -/
def execSeVxKK (x : Reg) (kk : Byte) (s : State) : Host.Outcome State Fault Refusal := .next (s.skipIf (s.getV x == kk))

/-- SNE Vx, kk (R108). -/
def execSneVxKK (x : Reg) (kk : Byte) (s : State) : Host.Outcome State Fault Refusal := .next (s.skipIf (s.getV x != kk))

/-- SE Vx, Vy (R109). -/
def execSeVxVy (x y : Reg) (s : State) : Host.Outcome State Fault Refusal := .next (s.skipIf (s.getV x == s.getV y))

/-- SNE Vx, Vy (R110). -/
def execSneVxVy (x y : Reg) (s : State) : Host.Outcome State Fault Refusal := .next (s.skipIf (s.getV x != s.getV y))

/-- JP V0, nnn: the offset register is always V0 (R111). -/
def execJpV0 (nnn : Address) (s : State) : Host.Outcome State Fault Refusal :=
  .next (s.setPc (zextByte (s.getV 0x0) + zextAddress nnn))

end Sys2Proof.Machine
end

