-- ==== Sys2Proof/Machine/Flags.lean ====
section
/-! DEFINITION. The flag computations, all into VF (10_state.md R21, 41_register_alu.md R136 to R144), and the order of
the flag write and the result write (R136). -/

namespace Sys2Proof.Machine

/-- A flag value: 1 or 0 (41_register_alu.md R144). -/
def flagByte (c : Bool) : Byte := if c then 1 else 0

/-- ADD: 1 when the old Vx is above the 8-bit sum, that is on unsigned overflow (41_register_alu.md R137). -/
def carryFlag (a b : Byte) : Byte := flagByte (decide (a > a + b))

/-- SUB and SUBN: 1 when the minuend is strictly above the subtrahend; equal operands give 0
(41_register_alu.md R138, R140; 90 C2, 92 D25; log 9). -/
def noBorrowFlag (minuend subtrahend : Byte) : Byte := flagByte (decide (minuend > subtrahend))

/-- SHR: the bit shifted out, `a & 1` (41_register_alu.md R139). -/
def shiftedOutRight (a : Byte) : Byte := a &&& 1

/-- SHL: the bit shifted out, `(a >> 7) & 1` (41_register_alu.md R141). -/
def shiftedOutLeft (a : Byte) : Byte := (a >>> 7) &&& 1

/-- DRW: 1 when some lit cell became unlit (43_display.md R181). -/
def collisionFlag (hit : Bool) : Byte := flagByte hit

/-- ADD, SUB, SUBN: the result first, the flag last, so VF ends as the flag when x = 0xF (R136, 92 D8; log 8). -/
def State.resultThenFlag (s : State) (x : Reg) (result flag : Byte) : State := (s.setV x result).setV regF flag

/-- SHR, SHL: the flag first, the result last, so VF ends as the result when x = 0xF (R136, 92 D8; log 8). -/
def State.flagThenResult (s : State) (x : Reg) (result flag : Byte) : State := (s.setV regF flag).setV x result

end Sys2Proof.Machine
end

