-- ==== Sys2Proof/Machine/Display.lean ====
section
/-! DEFINITION. The framebuffer instructions (43_display.md). -/

namespace Sys2Proof.Machine

/-- CLS: every cell unlit, VF not written (R180). -/
def execCls (s : State) : Host.Outcome State Fault Refusal := .next (s.setFb 0)

/-- The sprite of DRW drawn on the state's framebuffer: row `row` is the byte at EA(row) (R181, R166). -/
def State.drawSprite (s : State) (x0 y0 : Byte) (n : Nibble) : Drawing :=
  drawRows { fb := s.fb, hit := false } x0 y0 (fun row => s.readByte (s.effectiveAddress row)) n.toNat

/-- DRW Vx, Vy, n: the coordinates are read before VF is written, once, at the end (R181, R182; 92 D7, D27). -/
def execDrw (x y : Reg) (n : Nibble) (s : State) : Host.Outcome State Fault Refusal :=
  let d := s.drawSprite (s.getV x) (s.getV y) n
  .next ((s.setFb d.fb).setV regF (collisionFlag d.hit))

end Sys2Proof.Machine
end

