-- ==== Sys2Proof/Machine/IndexMemory.lean ====
section
/-! DEFINITION. The index register and the memory instructions (42_index_memory.md). None changes I as a side effect
(R166). -/

namespace Sys2Proof.Machine

/-- LD I, nnn (R160). -/
def execLdI (nnn : Address) (s : State) : Host.Outcome State Fault Refusal := .next (s.setI (zextAddress nnn))

/-- ADD I, Vx: 16-bit wrap, no mask to 12 bits, no flag (R161, 90 C4). -/
def execAddIVx (x : Reg) (s : State) : Host.Outcome State Fault Refusal := .next (s.setI (s.i + zextByte (s.getV x)))

/-- LD F, Vx: the glyph of the digit in Vx's low nibble (R162). -/
def execLdFVx (x : Reg) (s : State) : Host.Outcome State Fault Refusal :=
  .next (s.setI (glyphAddress (lowNibble (s.getV x))))

/-- LD B, Vx: three decimal digits at I, I + 1, I + 2 (R163). -/
def execLdBVx (x : Reg) (s : State) : Host.Outcome State Fault Refusal :=
  .next (((s.writeByte (s.effectiveAddress 0) (hundredsDigit (s.getV x))).writeByte (s.effectiveAddress 1)
    (tensDigit (s.getV x))).writeByte (s.effectiveAddress 2) (unitsDigit (s.getV x)))

/-- LD [I], Vx: V0 to Vx stored from I on (R164). -/
def execLdMemVx (x : Reg) (s : State) : Host.Outcome State Fault Refusal :=
  .next (s.storeRegs (blockLength x))

/-- LD Vx, [I]: V0 to Vx loaded from I on (R165). -/
def execLdVxMem (x : Reg) (s : State) : Host.Outcome State Fault Refusal :=
  .next (s.loadRegs (blockLength x))

end Sys2Proof.Machine
end

