-- ==== Sys2Proof/Machine/KeysTimers.lean ====
section
/-! DEFINITION. Keys, timers and the wait-key latch (44_keys_timers.md): the instructions. The KEY and TICK commands stand
in Commands.lean. -/

namespace Sys2Proof.Machine

/-- SKP Vx (R190, R192, R193). -/
def execSkp (x : Reg) (s : State) : Host.Outcome State Fault Refusal := .next (s.skipIf (s.keyHeld (lowNibble (s.getV x))))

/-- SKNP Vx (R191, R192, R193). -/
def execSknp (x : Reg) (s : State) : Host.Outcome State Fault Refusal := .next (s.skipIf !(s.keyHeld (lowNibble (s.getV x))))

/-- LD Vx, DT (R194). -/
def execLdVxDT (x : Reg) (s : State) : Host.Outcome State Fault Refusal := .next (s.setV x s.dt)

/-- LD Vx, K: the FSM enters WAIT_KEY(x); Vx is written at the key delivery (R197, R199). -/
def execLdVxK (x : Reg) (s : State) : Host.Outcome State Fault Refusal := .next (s.setLatch (some x))

/-- LD DT, Vx (R195). -/
def execLdDTVx (x : Reg) (s : State) : Host.Outcome State Fault Refusal := .next (s.setDt (s.getV x))

/-- LD ST, Vx: no audio notification (R196, 92 D19). -/
def execLdSTVx (x : Reg) (s : State) : Host.Outcome State Fault Refusal := .next (s.setSt (s.getV x))

end Sys2Proof.Machine
end

