-- ==== Sys2Proof/Machine/Cycle.lean ====
section
/-! DEFINITION. The execution cycle: the STEP command (40_control_flow.md R100, R101), and one transaction of the command
port (10_state.md R37). -/

namespace Sys2Proof.Machine

/-- What a STEP of an instruction whose word is `w` does beside its effect: PC <- PC + 2 before the dispatch, and the
reports decode_miss <- 0, miss_word <- w, audio_valid <- 0 (R100; 10_state.md R25, R43, R44; log 6). -/
def State.beginStep (s : State) (w : Word) : State := s.advance.setOut { s.out.quiet with missWord := w }

/-- A STEP of an UNKNOWN word: a no-op after the advance, reported (R112, 30_encoding.md R77). -/
def State.decodeMissStep (s : State) (w : Word) : State :=
  s.advance.setOut { s.out.quiet with decodeMiss := true, missWord := w }

/-- A STEP while LATCH is set: nothing is fetched and no state changes; the reports are cleared (R101, 92 D13; log 15). -/
def State.waitingStep (s : State) : State := s.setOut s.out.quiet

/-- The STEP command with the inputs the environment gives (R100, R101). -/
def State.stepCommand (s : State) (given : Option Inputs) : Host.Outcome State Fault Refusal :=
  match s.latch with
  | some _ => .next s.waitingStep
  | none =>
    match decode s.fetch with
    | .instr i => exec i ((s.sample given i).beginStep s.fetch)
    | .unknown w => .next (s.decodeMissStep w)

/-- One command of the port, whole (10_state.md R37, 20_memory.md R57). -/
def State.command (s : State) : Command → Host.Outcome State Fault Refusal
  | .reset => .next s.resetCommand
  | .load data => .next (s.loadCommand data)
  | .step given => s.stepCommand given
  | .tick => .next s.tickCommand
  | .key k => .next (s.keyCommand k)

/-- The command the environment issues next: the head of its script, or a STEP with free inputs (log 2). -/
def Environment.nextCommand (e : Environment) : Command := e.script.headD (.step none)

/-- The environment once it has issued that command. -/
def Environment.issued (e : Environment) : Environment := { e with script := e.script.tail }

/-- One transaction: the environment issues its next command and the block executes it. -/
def State.transact (s : State) : Host.Outcome State Fault Refusal :=
  (s.setEnv s.env.issued).command s.env.nextCommand

/-- `w` placed where the next STEP fetches: at PC and PC + 1, high byte first (20_memory.md R55), the FSM in RUN and the
environment issuing that STEP (log 3). -/
def State.placeWord (s : State) (w : Word) : State :=
  (((s.writeByte s.pc.toNat (wordBytes w).1).writeByte (s.pc.toNat + 1) (wordBytes w).2).setLatch none).setEnv
    { s.env with script := [] }

end Sys2Proof.Machine
end

