-- ==== Sys2Proof/Machine/Step.lean ====
section
/-! DEFINITION. One step of the machine: one transaction of the command port. -/

namespace Sys2Proof.Machine

/-- One command, issued by the environment and executed whole (10_state.md R37, 20_memory.md R57). -/
def step (s : State) : Host.Outcome State Fault Refusal := s.transact

/-- `s` with the instruction word of a table row where the next step fetches and runs it. -/
def State.withFetchWord (s : State) (nbits w : Nat) : State := s.placeWord (tableWord nbits w)

end Sys2Proof.Machine
end

