-- ==== Sys2Proof/Machine/Ports.lean ====
section
/-! DEFINITION. The outputs of the block that are functions of its state (10_state.md R39, R40, R45), and all its outputs
together. -/

namespace Sys2Proof.Machine

/-- fb[2047:0], the render port: bit r * 64 + c is FB[c, r] (R39). -/
def State.fbPort (s : State) : BitVec 2048 := s.fb

/-- cur_word[15:0]: the word the next STEP would execute, defined in WAIT_KEY too (R40). -/
def State.curWord (s : State) : Word := s.fetch

/-- waiting: 1 exactly when LATCH is not none (R45). -/
def State.waiting (s : State) : Bool := s.latch.isSome

/-- wait_reg[3:0]: LATCH's register index, and 0 when nothing waits (R45). -/
def State.waitReg (s : State) : Nibble := s.latch.getD 0

/-- Everything the environment can see of the block (R38 to R45). -/
structure PortView where
  fb         : BitVec 2048
  curWord    : Word
  waiting    : Bool
  waitReg    : Nibble
  loadOk     : Bool
  audioValid : Bool
  audioPause : Bool
  decodeMiss : Bool
  missWord   : Word
deriving DecidableEq, Repr

/-- The block's outputs between commands (R39). -/
def State.ports (s : State) : PortView :=
  { fb := s.fbPort, curWord := s.curWord, waiting := s.waiting, waitReg := s.waitReg, loadOk := s.out.loadOk,
    audioValid := s.out.audioValid, audioPause := s.out.audioPause, decodeMiss := s.out.decodeMiss,
    missWord := s.out.missWord }

end Sys2Proof.Machine
end

