-- ==== Sys2Proof/Safety.lean ====
section
/-! DEFINITION. The terms the statements use: the invariant, the frames, the spec's tables of who reads and writes what,
and the conditions under which a step runs an instruction. -/

namespace Sys2Proof.Machine

/-! ## The invariant -/

/-- What holds of every reachable state: PC's bits 15:12 are 0 (10_state.md R23), every call-stack entry is such a PC value
(R35), and memory is in its canonical form (log 14). -/
abbrev State.Inv (s : State) : Prop :=
  s.pc.toNat < 4096 ∧ (∀ j : Fin 16, (s.stack[j.val]'j.isLt).toNat < 4096) ∧ Memory.wf s.font s.mem

/-! ## Frames: `t` is `s` with at most the named parts changed -/

def ChangesOnlyV (s t : State) : Prop := t = { s with v := t.v }
def ChangesOnlyPc (s t : State) : Prop := t = { s with pc := t.pc }
def ChangesOnlyI (s t : State) : Prop := t = { s with i := t.i }
def ChangesOnlyDt (s t : State) : Prop := t = { s with dt := t.dt }
def ChangesOnlySt (s t : State) : Prop := t = { s with st := t.st }
def ChangesOnlyLatch (s t : State) : Prop := t = { s with latch := t.latch }
def ChangesOnlyMem (s t : State) : Prop := t = { s with mem := t.mem }
def ChangesOnlyFb (s t : State) : Prop := t = { s with fb := t.fb }
def ChangesOnlyFbAndV (s t : State) : Prop := t = { s with fb := t.fb, v := t.v }
def ChangesOnlyPcAndStack (s t : State) : Prop := t = { s with pc := t.pc, sp := t.sp, stack := t.stack }

/-- Every byte of memory reads as before. -/
def SameMemory (s t : State) : Prop := ∀ a, t.readByte a = s.readByte a

/-- Every general register but those in `rs` reads as before. -/
def SameRegistersBut (rs : List Reg) (s t : State) : Prop := ∀ r, r ∉ rs → t.getV r = s.getV r

/-! ## What a word decodes to, and what a step runs -/

/-- Every word with the row's fixed nibbles decodes to the row's instruction, its fields read from the word (R74, R70). -/
def DecodesAs (mask value : Word) (ins : Word → Instr) : Prop := ∀ w : Word, w &&& mask = value → decode w = .instr (ins w)

/-- The next transaction is a STEP with these inputs, in FSM state RUN (40_control_flow.md R100, R102). -/
def State.StepsNext (s : State) (given : Option Inputs) : Prop := s.env.nextCommand = .step given ∧ s.latch = none

/-- The next transaction is a STEP that executes `i`. -/
def State.Executes (s : State) (given : Option Inputs) (i : Instr) : Prop :=
  s.StepsNext given ∧ decode s.fetch = .instr i

/-- The words of the UNKNOWN space (the table of 30_encoding.md R76), as numbers. -/
def InUnknownSpace (w : Nat) : Prop :=
  (w / 4096 = 0x0 ∧ w ≠ 0x00E0 ∧ w ≠ 0x00EE) ∨
  (w / 4096 = 0x5 ∧ w % 16 ≠ 0) ∨
  (w / 4096 = 0x8 ∧ w % 16 ∈ [0x8, 0x9, 0xA, 0xB, 0xC, 0xD, 0xF]) ∨
  (w / 4096 = 0x9 ∧ w % 16 ≠ 0) ∨
  (w / 4096 = 0xE ∧ w % 256 ∉ [0x9E, 0xA1]) ∨
  (w / 4096 = 0xF ∧ w % 256 ∉ [0x07, 0x0A, 0x15, 0x18, 0x1E, 0x29, 0x33, 0x55, 0x65])

/-! ## The spec's tables of who reads and writes what -/

/-- Column "writes V" of 10_state.md R22: the registers a STEP of the instruction may write. -/
def writesV : Instr → Reg → Bool
  | .ldVxKK x _, r | .addVxKK x _, r | .rnd x _, r | .ldVxDT x, r | .ldVxVy x _, r | .or x _, r | .and x _, r
  | .xor x _, r => r == x
  | .addVxVy x _, r | .sub x _, r | .subn x _, r | .shr x _, r | .shl x _, r => r == x || r == regF
  | .drw _ _ _, r => r == regF
  | .ldVxMem x, r => decide (r.toNat ≤ x.toNat)
  | .cls, _ | .ret, _ | .jp _, _ | .call _, _ | .seVxKK _ _, _ | .sneVxKK _ _, _ | .seVxVy _ _, _ | .sneVxVy _ _, _
  | .ldI _, _ | .jpV0 _, _ | .skp _, _ | .sknp _, _ | .ldVxK _, _ | .ldDTVx _, _ | .ldSTVx _, _ | .addIVx _, _
  | .ldFVx _, _ | .ldBVx _, _ | .ldMemVx _, _ => false

/-- Column "reads V" of 10_state.md R22: the registers a STEP of the instruction reads. SHR and SHL do not read Vy. -/
def readsV : Instr → Reg → Bool
  | .seVxKK x _, r | .sneVxKK x _, r | .skp x, r | .sknp x, r | .ldDTVx x, r | .ldSTVx x, r | .addIVx x, r | .ldFVx x, r
  | .ldBVx x, r | .addVxKK x _, r | .shr x _, r | .shl x _, r => r == x
  | .ldVxVy _ y, r => r == y
  | .seVxVy x y, r | .sneVxVy x y, r | .or x y, r | .and x y, r | .xor x y, r | .addVxVy x y, r | .sub x y, r
  | .subn x y, r | .drw x y _, r => r == x || r == y
  | .jpV0 _, r => r == 0x0#4
  | .ldMemVx x, r => decide (r.toNat ≤ x.toNat)
  | .cls, _ | .ret, _ | .jp _, _ | .call _, _ | .ldVxKK _ _, _ | .ldI _, _ | .rnd _ _, _ | .ldVxDT _, _ | .ldVxK _, _
  | .ldVxMem _, _ => false

/-- The registers of 10_state.md R35 beside V, memory (20_memory.md R53) and the framebuffer (10_state.md R33). -/
inductive Component where
  | pc | i | sp | stack | dt | st | latch | fb | mem
deriving DecidableEq, Repr

/-- Column "written by" of 10_state.md R35, memory by 20_memory.md R53 and FB by R33: what the instruction's own effect,
after the advance of PC, may write. -/
def mayWrite : Instr → Component → Bool
  | .jp _, c | .jpV0 _, c | .seVxKK _ _, c | .sneVxKK _ _, c | .seVxVy _ _, c | .sneVxVy _ _, c | .skp _, c
  | .sknp _, c => c == .pc
  | .call _, c => c == .pc || c == .sp || c == .stack
  | .ret, c => c == .pc || c == .sp
  | .ldI _, c | .addIVx _, c | .ldFVx _, c => c == .i
  | .ldDTVx _, c => c == .dt
  | .ldSTVx _, c => c == .st
  | .ldVxK _, c => c == .latch
  | .cls, c | .drw _ _ _, c => c == .fb
  | .ldBVx _, c | .ldMemVx _, c => c == .mem
  | .ldVxKK _ _, _ | .addVxKK _ _, _ | .ldVxVy _ _, _ | .or _ _, _ | .and _ _, _ | .xor _ _, _ | .addVxVy _ _, _
  | .sub _ _, _ | .shr _ _, _ | .subn _ _, _ | .shl _ _, _ | .rnd _ _, _ | .ldVxDT _, _ | .ldVxMem _, _ => false

/-- The component is the same in both states; memory and the framebuffer through their reads. -/
def Unchanged (s t : State) : Component → Prop
  | .pc => t.pc = s.pc
  | .i => t.i = s.i
  | .sp => t.sp = s.sp
  | .stack => t.stack = s.stack
  | .dt => t.dt = s.dt
  | .st => t.st = s.st
  | .latch => t.latch = s.latch
  | .fb => ∀ c r, cellAt t.fb c r = cellAt s.fb c r
  | .mem => SameMemory s t

/-! ## The sprite of DRW (43_display.md R181) -/

/-- Some lit bit of the `n`-row sprite `sprite`, drawn at (x0, y0), falls on cell (c, r): columns wrap modulo 64 and rows
modulo 32, and column `col` takes bit 7 - col (92 D10). -/
def SpriteCovers (x0 y0 : Byte) (sprite : Nat → Byte) (n c r : Nat) : Prop :=
  ∃ row < n, ∃ col < 8, c = (x0.toNat + col) % 64 ∧ r = (y0.toNat + row) % 32 ∧ (sprite row).getLsbD (7 - col) = true

/-- The sprite DRW Vx, Vy, n draws from `s`, row `row` at EA(row). -/
def State.DrawCovers (s : State) (x y : Reg) (n : Nibble) (c r : Nat) : Prop :=
  SpriteCovers (s.getV x) (s.getV y) (fun row => s.readByte (s.effectiveAddress row)) n.toNat c r

/-! ## The control FSM (40_control_flow.md R102) -/

/-- The FSM state after a command, as the table of R102 gives it; `ran` is the instruction a STEP in RUN executed. -/
def nextLatch (before : Option Reg) (c : Command) (ran : Option Instr) : Option Reg :=
  match c, before, ran with
  | .step _, none, some (.ldVxK x) => some x
  | .step _, latch, _ => latch
  | .key _, _, _ => none
  | .tick, latch, _ => latch
  | .load _, latch, _ => latch
  | .reset, _, _ => none

/-- The instruction that a STEP from `s` executes, if it executes one. -/
def State.instrAtPc (s : State) : Option Instr :=
  match decode s.fetch with
  | .instr i => some i
  | .unknown _ => none

/-- k TICK commands in a row (44_keys_timers.md R205). -/
def ticks : Nat → State → State
  | 0, s => s
  | k + 1, s => (ticks k s).tickCommand

end Sys2Proof.Machine
end

