-- ==== Sys2Proof/Certificates/Slice0/Obligations.lean ====
section
/-! DEFINITION. The statements for the provers. Each docstring names the rule of spec/ it formalises, or, for a derived
statement, what it rests on. Frames are written `ChangesOnly… s t`: the next state is the old one but for the named parts.
"ENC" in a docstring: the clause `DecodesAs` rests on a pattern of R74 that the spec marks as general knowledge (93 G1,
log 20). -/

open Sys2Proof Sys2Proof.Machine

/-! ## Decoding and encoding (30_encoding.md) -/

/-- The document's worked words and every word of the spec's decode vectors (95_test_vectors.md W1 to W6, T-DEC-1 to T-DEC-4).
The patterns of the words that only T-DEC-2 to T-DEC-4 name are general knowledge (93 G1, log 20); 0x01E0 is the spec's
decision D6 (log 11). -/
def Obligations.WorkedWordsDecode : Prop :=
  decode 0x00E0#16 = .instr .cls ∧ decode 0x00EE#16 = .instr .ret ∧ decode 0x1ABC#16 = .instr (.jp 0xABC) ∧
  decode 0x8AB4#16 = .instr (.addVxVy 0xA 0xB) ∧ decode 0xFA33#16 = .instr (.ldBVx 0xA) ∧
  decode 0xF033#16 = .instr (.ldBVx 0x0) ∧ decode 0x0123#16 = .unknown 0x0123 ∧ decode 0x01E0#16 = .unknown 0x01E0 ∧
  decode 0x10E0#16 = .instr (.jp 0x0E0) ∧ decode 0xF000#16 = .unknown 0xF000 ∧
  decode 0x5121#16 = .unknown 0x5121 ∧ decode 0x8AB8#16 = .unknown 0x8AB8 ∧ decode 0x9AB1#16 = .unknown 0x9AB1 ∧
  decode 0xE19F#16 = .unknown 0xE19F ∧ decode 0xF0FF#16 = .unknown 0xF0FF ∧ decode 0x800F#16 = .unknown 0x800F ∧
  decode 0x800E#16 = .instr (.shl 0x0 0x0)

/-- Decoding an encoded instruction gives it back, with every operand at every value (R71, R74, R78). ENC. -/
def Obligations.DecodeInvertsEncode : Prop := ∀ i : Instr, decode (encode i) = .instr i

/-- Encoding what a word decodes to gives the word back: no bit is dropped and no two words share a meaning (R74, R75).
ENC. -/
def Obligations.EncodeInvertsDecode : Prop := ∀ (w : Word) (i : Instr), decode w = .instr i → encode i = w

/-- The decoder is the table of R74: a word decodes to an instruction of the row it matches, it matches no other row, and a
word that matches no row is UNKNOWN. Most patterns are from general knowledge (93 G1, log 20), so this is derived. -/
def Obligations.DecodeFollowsOpcodeTable : Prop :=
  ∀ w : Word,
    (∀ r ∈ opcodeTable, r.Matches w ↔ ∃ i, decode w = .instr i ∧ i.mnemonic = r.mnemonic) ∧
    (∀ r ∈ opcodeTable, ∀ r' ∈ opcodeTable, r.Matches w → r'.Matches w → r = r') ∧
    ((∀ r ∈ opcodeTable, ¬r.Matches w) ↔ decode w = .unknown w)

/-- The UNKNOWN space is the table of R76, which follows from R74 (ENC) and the spec's decision D6 (log 11); the result carries
the whole word (R78, D29). -/
def Obligations.UnknownSpaceIsTabled : Prop :=
  ∀ w : Word, (InUnknownSpace w.toNat ↔ decode w = .unknown w) ∧ ∀ u, decode w = .unknown u → u = w

/-! ## The execution cycle (40_control_flow.md R100 to R102, 20_memory.md) -/

/-- A STEP in RUN whose word decodes is exec of the instruction, at the state with PC advanced, the reports written and the
inputs sampled: the given ones, or free values where the environment leaves them open and the instruction samples one
(R100; the input and command side is the model's, logs 1 and 2; miss_word, log 6). -/
def Obligations.StepRunsDecodedInstruction : Prop :=
  ∀ (s : State) (g : Option Inputs) (i : Instr), s.Executes g i →
    ∃ b : State, step s = exec i b ∧
      b = { s with pc := b.pc, out := b.out, env := b.env } ∧ b.pc.toNat = (s.pc.toNat + 2) % 4096 ∧
      b.out = { s.out with audioValid := false, decodeMiss := false, missWord := s.fetch } ∧
      b.env.script = s.env.script.tail ∧
      (∀ p, g = some p → b.env.inputs = p ∧ b.env.draws = s.env.draws) ∧
      (g = none → samplesInput i = true →
        b.env.inputs = ⟨Config.keyHeldInput s.env.draws, Config.rndInput s.env.draws⟩ ∧ b.env.draws = s.env.draws + 1) ∧
      (g = none → samplesInput i = false → b.env.inputs = s.env.inputs ∧ b.env.draws = s.env.draws)

/-- R112: every word of the UNKNOWN space is a no-op after the advance, and the block reports it (R76 rests on ENC and on
D6, log 11; the reports are D22). -/
def Obligations.UnknownWordIsReportedNop : Prop :=
  (∀ w : Word, InUnknownSpace w.toNat → decode w = .unknown w) ∧
  ∀ (s : State) (g : Option Inputs), s.StepsNext g → decode s.fetch = .unknown s.fetch →
    ∃ t : State, step s = .next t ∧ t.pc.toNat = (s.pc.toNat + 2) % 4096 ∧
      t.out = { s.out with audioValid := false, decodeMiss := true, missWord := s.fetch } ∧
      t = { s with pc := t.pc, out := t.out, env := { s.env with script := s.env.script.tail } }

/-- R101 (the spec's decision D13, log 15): a STEP while LATCH is set changes no state; the reports are cleared
(miss_word and load_ok hold: log 7). -/
def Obligations.WaitingStepChangesNothing : Prop :=
  ∀ (s : State) (g : Option Inputs) (x : Reg), s.env.nextCommand = .step g → s.latch = some x →
    step s = .next { s with out := { s.out with audioValid := false, decodeMiss := false },
                            env := { s.env with script := s.env.script.tail } }

/-- The fetched word is big-endian, and its second byte wraps to address 0 (20_memory.md R54, R55; D3). -/
def Obligations.FetchIsBigEndian : Prop :=
  ∀ s : State, s.fetch.toNat =
    256 * (s.readByte s.pc.toNat).toNat + (s.readByte ((s.pc.toNat + 1) % 4096)).toNat

/-- A word placed where the machine fetches is what the next step runs, whatever the word; all other memory keeps its
bytes (20_memory.md R55, R61; log 3). -/
def Obligations.PlacedWordIsExecuted : Prop :=
  ∀ (s : State) (w : Word) (i : Instr), Memory.wf s.font s.mem → decode w = .instr i →
    ∃ p : State, p = s.withFetchWord 16 w.toNat ∧ p.fetch = w ∧
      step p = exec i ((p.sample none i).beginStep w) ∧
      p = { s with mem := p.mem, latch := none, env := { s.env with script := [] } } ∧
      ∀ a, a % 4096 ≠ s.pc.toNat % 4096 → a % 4096 ≠ (s.pc.toNat + 1) % 4096 → p.readByte a = s.readByte a

/-- Every step of every state answers a next state: no word, operand, address or command stops the block
(60_exceptions.md R210, R211). -/
def Obligations.StepAlwaysAnswers : Prop := ∀ s : State, ∃ t : State, step s = .next t

/-- Every step keeps the invariant: PC stays below 0x1000, the call stack holds PC values, memory stays canonical,
and the parameter FONT stays what it is
(10_state.md R23, R24, R35; the memory form is the model's, log 14). -/
def Obligations.StepKeepsInvariant : Prop := ∀ s t : State, s.Inv → step s = .next t → t.Inv ∧ t.font = s.font

/-- The reset state meets the invariant, whatever FONT is; that the stack holds zeros is the spec's decision D12 (log 5). -/
def Obligations.ResetMeetsInvariant : Prop := State.reset.Inv ∧ ∀ font : Font, (State.resetWith font).Inv

/-- Two canonical memories that read alike are equal data, whatever FONT is (log 14). -/
def Obligations.CanonicalMemoriesAreEqual : Prop :=
  ∀ (font : Font) (m m' : Memory), Memory.wf font m → Memory.wf font m' →
    (∀ a, Memory.read font m a = Memory.read font m' a) → m = m'

/-- A block store over the bytes at PC is what the next fetch sees: no fence is needed (20_memory.md R63, which the spec marks
as derived). -/
def Obligations.SelfModifyingStoreIsFetched : Prop :=
  ∀ (s : State) (x k k' : Reg), Memory.wf s.font s.mem → k'.toNat = k.toNat + 1 → k'.toNat ≤ x.toNat →
    s.pc.toNat % 4096 = s.effectiveAddress k.toNat →
    ∃ t : State, exec (.ldMemVx x) s = .next t ∧ t.fetch = s.getV k ++ s.getV k'

/-! ## Control transfer (40_control_flow.md) -/

/-- R105, JP nnn. The last clause is the corner case that R105 marks as derived from R100 and R105: a JP to its own address
leaves all state unchanged (the reports aside). -/
def Obligations.JumpGoesToAddress : Prop :=
  DecodesAs 0xF000 0x1000 (fun w => .jp (fieldNNN w)) ∧
  (∀ (nnn : Address) (s : State), ∃ t : State, exec (.jp nnn) s = .next t ∧ t.pc = zextAddress nnn ∧
    ChangesOnlyPc s t ∧ SameMemory s t) ∧
  (∀ (s : State) (g : Option Inputs) (nnn : Address), s.Executes g (.jp nnn) → s.pc = zextAddress nnn →
    ∃ t : State, step s = .next t ∧ t = { s with out := t.out, env := t.env })

/-- R106, CALL nnn, with room on the stack and without. The last clause: the pushed value is the CALL's address + 2, so a
CALL at 0xFFE pushes 0x000. ENC. -/
def Obligations.CallPushesReturnAddress : Prop :=
  DecodesAs 0xF000 0x2000 (fun w => .call (fieldNNN w)) ∧
  (∀ (nnn : Address) (s : State), s.sp.val < 16 → ∃ t : State, exec (.call nnn) s = .next t ∧ t.pc = zextAddress nnn ∧
    t.sp.val = s.sp.val + 1 ∧
    (∀ j : Fin 16, t.stack[j.val]'j.isLt = if j.val = s.sp.val then s.pc else s.stack[j.val]'j.isLt) ∧
    ChangesOnlyPcAndStack s t ∧ SameMemory s t) ∧
  (∀ (nnn : Address) (s : State), s.sp.val = 16 → exec (.call nnn) s = .next s) ∧
  (∀ (s : State) (g : Option Inputs) (nnn : Address), s.Executes g (.call nnn) → ∀ j : Fin 16, j.val = s.sp.val →
    ∃ t : State, step s = .next t ∧ (t.stack[j.val]'j.isLt).toNat = (s.pc.toNat + 2) % 4096)

/-- R104, RET, with an empty stack and with a return address; the entry is left as it was. -/
def Obligations.ReturnPopsPc : Prop :=
  DecodesAs 0xFFFF 0x00EE (fun _ => .ret) ∧
  (∀ s : State, s.sp.val = 0 → exec .ret s = .next s) ∧
  (∀ s : State, s.sp.val ≠ 0 → ∃ t : State, exec .ret s = .next t ∧ t.sp.val + 1 = s.sp.val ∧
    (∀ j : Fin 16, j.val = t.sp.val → t.pc = (s.stack[j.val]'j.isLt) &&& 0x0FFF#16) ∧
    t = { s with pc := t.pc, sp := t.sp } ∧ SameMemory s t)

/-- R107 and R108: SE and SNE against a byte. ENC. -/
def Obligations.SkipOnImmediate : Prop :=
  DecodesAs 0xF000 0x3000 (fun w => .seVxKK (fieldX w) (fieldKK w)) ∧
  DecodesAs 0xF000 0x4000 (fun w => .sneVxKK (fieldX w) (fieldKK w)) ∧
  ∀ (x : Reg) (kk : Byte) (s : State),
    (∃ t : State, exec (.seVxKK x kk) s = .next t ∧ ChangesOnlyPc s t ∧ SameMemory s t ∧
      t.pc.toNat = if s.getV x = kk then (s.pc.toNat + 2) % 4096 else s.pc.toNat) ∧
    (∃ t : State, exec (.sneVxKK x kk) s = .next t ∧ ChangesOnlyPc s t ∧ SameMemory s t ∧
      t.pc.toNat = if s.getV x = kk then s.pc.toNat else (s.pc.toNat + 2) % 4096)

/-- R109 and R110: SE and SNE between registers; with x = y SE always skips (marked as derived in R109) and SNE
never does. ENC; the exact match of n is D6, log 11. -/
def Obligations.SkipOnRegisters : Prop :=
  DecodesAs 0xF00F 0x5000 (fun w => .seVxVy (fieldX w) (fieldY w)) ∧
  DecodesAs 0xF00F 0x9000 (fun w => .sneVxVy (fieldX w) (fieldY w)) ∧
  (∀ w : Word, fieldFamily w = 0x5 ∨ fieldFamily w = 0x9 → fieldN w ≠ 0 → decode w = .unknown w) ∧
  (∀ (x y : Reg) (s : State),
    (∃ t : State, exec (.seVxVy x y) s = .next t ∧ ChangesOnlyPc s t ∧ SameMemory s t ∧
      t.pc.toNat = if s.getV x = s.getV y then (s.pc.toNat + 2) % 4096 else s.pc.toNat) ∧
    (∃ t : State, exec (.sneVxVy x y) s = .next t ∧ ChangesOnlyPc s t ∧ SameMemory s t ∧
      t.pc.toNat = if s.getV x = s.getV y then s.pc.toNat else (s.pc.toNat + 2) % 4096)) ∧
  (∀ (x : Reg) (s : State), exec (.seVxVy x x) s = .next s.advance ∧ exec (.sneVxVy x x) s = .next s)

/-- R111: JP V0, nnn; the sum is masked to 12 bits and the offset is always V0. ENC. -/
def Obligations.JumpWithOffset : Prop :=
  DecodesAs 0xF000 0xB000 (fun w => .jpV0 (fieldNNN w)) ∧
  ∀ (nnn : Address) (s : State), ∃ t : State, exec (.jpV0 nnn) s = .next t ∧ ChangesOnlyPc s t ∧ SameMemory s t ∧
    t.pc.toNat = ((s.getV 0x0).toNat + nnn.toNat) % 4096

/-- A RET that finds the stack as a CALL left it returns to the PC the CALL saw (R104, R106; 95 W13). -/
def Obligations.CallThenReturnRestoresPc : Prop :=
  ∀ (nnn : Address) (s : State), s.sp.val < 16 → s.pc.toNat < 4096 →
    ∃ t : State, exec (.call nnn) s = .next t ∧
      ∀ u : State, u.sp = t.sp → u.stack = t.stack → ∃ r : State, exec .ret u = .next r ∧ r.pc = s.pc ∧ r.sp = s.sp

/-! ## Register loads and ALU (41_register_alu.md) -/

/-- R130 and R132: LD Vx, kk and LD Vx, Vy. VF is written only as the ordinary register x = 0xF. ENC. -/
def Obligations.LoadImmediateAndCopy : Prop :=
  DecodesAs 0xF000 0x6000 (fun w => .ldVxKK (fieldX w) (fieldKK w)) ∧
  DecodesAs 0xF00F 0x8000 (fun w => .ldVxVy (fieldX w) (fieldY w)) ∧
  (∀ (x : Reg) (kk : Byte) (s : State), ∃ t : State, exec (.ldVxKK x kk) s = .next t ∧ t.getV x = kk ∧
    SameRegistersBut [x] s t ∧ ChangesOnlyV s t ∧ SameMemory s t) ∧
  (∀ (x y : Reg) (s : State), ∃ t : State, exec (.ldVxVy x y) s = .next t ∧ t.getV x = s.getV y ∧
    SameRegistersBut [x] s t ∧ ChangesOnlyV s t ∧ SameMemory s t)

/-- R131: ADD Vx, kk wraps modulo 256 and writes no flag: VF changes only as the register x = 0xF. ENC. -/
def Obligations.AddImmediateWritesNoFlag : Prop :=
  DecodesAs 0xF000 0x7000 (fun w => .addVxKK (fieldX w) (fieldKK w)) ∧
  ∀ (x : Reg) (kk : Byte) (s : State), ∃ t : State, exec (.addVxKK x kk) s = .next t ∧
    (t.getV x).toNat = ((s.getV x).toNat + kk.toNat) % 256 ∧ SameRegistersBut [x] s t ∧ ChangesOnlyV s t ∧ SameMemory s t

/-- R133 to R135: OR, AND and XOR, bit by bit; no flag (the spec's decision D9, log 19). -/
def Obligations.BitwiseOperations : Prop :=
  ∀ (x y : Reg) (s : State),
    (∃ t : State, exec (.or x y) s = .next t ∧ SameRegistersBut [x] s t ∧ ChangesOnlyV s t ∧ SameMemory s t ∧
      ∀ j < 8, (t.getV x).getLsbD j = ((s.getV x).getLsbD j || (s.getV y).getLsbD j)) ∧
    (∃ t : State, exec (.and x y) s = .next t ∧ SameRegistersBut [x] s t ∧ ChangesOnlyV s t ∧ SameMemory s t ∧
      ∀ j < 8, (t.getV x).getLsbD j = ((s.getV x).getLsbD j && (s.getV y).getLsbD j)) ∧
    (∃ t : State, exec (.xor x y) s = .next t ∧ SameRegistersBut [x] s t ∧ ChangesOnlyV s t ∧ SameMemory s t ∧
      ∀ j < 8, (t.getV x).getLsbD j = ((s.getV x).getLsbD j ^^ (s.getV y).getLsbD j))

/-- R137: ADD Vx, Vy. VF is 1 exactly when the exact sum reaches 256; with x = 0xF it ends as the flag (R136, the spec's
decision D8, log 8). -/
def Obligations.AddSetsCarry : Prop :=
  ∀ (x y : Reg) (s : State), ∃ t : State, exec (.addVxVy x y) s = .next t ∧
    (x ≠ regF → (t.getV x).toNat = ((s.getV x).toNat + (s.getV y).toNat) % 256) ∧
    (t.getV regF).toNat = (if 256 ≤ (s.getV x).toNat + (s.getV y).toNat then 1 else 0) ∧
    SameRegistersBut [x, regF] s t ∧ ChangesOnlyV s t ∧ SameMemory s t

/-- R138 and R140: SUB and SUBN. VF is the strict comparison (90 C2, D25, log 9); with x = 0xF it ends as the flag (D8,
log 8). -/
def Obligations.SubtractSetsNoBorrow : Prop :=
  ∀ (x y : Reg) (s : State),
    (∃ t : State, exec (.sub x y) s = .next t ∧
      (x ≠ regF → (t.getV x).toNat = ((s.getV x).toNat + 256 - (s.getV y).toNat) % 256) ∧
      (t.getV regF).toNat = (if (s.getV y).toNat < (s.getV x).toNat then 1 else 0) ∧
      SameRegistersBut [x, regF] s t ∧ ChangesOnlyV s t ∧ SameMemory s t) ∧
    (∃ t : State, exec (.subn x y) s = .next t ∧
      (x ≠ regF → (t.getV x).toNat = ((s.getV y).toNat + 256 - (s.getV x).toNat) % 256) ∧
      (t.getV regF).toNat = (if (s.getV x).toNat < (s.getV y).toNat then 1 else 0) ∧
      SameRegistersBut [x, regF] s t ∧ ChangesOnlyV s t ∧ SameMemory s t)

/-- R139 and R141: SHR and SHL halve and double Vx, whatever y is; VF is the bit shifted out, and with x = 0xF it ends as
the shifted result (R136, D8, log 8). -/
def Obligations.ShiftsMoveOneBitIntoFlag : Prop :=
  ∀ (x y : Reg) (s : State),
    (∃ t : State, exec (.shr x y) s = .next t ∧ (t.getV x).toNat = (s.getV x).toNat / 2 ∧
      (x ≠ regF → (t.getV regF).toNat = (s.getV x).toNat % 2) ∧
      SameRegistersBut [x, regF] s t ∧ ChangesOnlyV s t ∧ SameMemory s t) ∧
    (∃ t : State, exec (.shl x y) s = .next t ∧ (t.getV x).toNat = (s.getV x).toNat * 2 % 256 ∧
      (x ≠ regF → (t.getV regF).toNat = (s.getV x).toNat / 128) ∧
      SameRegistersBut [x, regF] s t ∧ ChangesOnlyV s t ∧ SameMemory s t)

/-- R142: RND masks the byte on the input rnd, for every such byte (D17); a STEP takes the byte the environment gives, or
the next free value. -/
def Obligations.RandomByteIsMasked : Prop :=
  (∀ (x : Reg) (kk : Byte) (s : State), ∃ t : State, exec (.rnd x kk) s = .next t ∧ t.getV x = s.env.inputs.rnd &&& kk ∧
    SameRegistersBut [x] s t ∧ ChangesOnlyV s t ∧ SameMemory s t) ∧
  (∀ (s : State) (p : Inputs) (x : Reg) (kk : Byte), s.Executes (some p) (.rnd x kk) →
    ∃ t : State, step s = .next t ∧ t.getV x = p.rnd &&& kk) ∧
  (∀ (s : State) (x : Reg) (kk : Byte), s.Executes none (.rnd x kk) →
    ∃ t : State, step s = .next t ∧ t.getV x = Config.rndInput s.env.draws &&& kk)

/-- R144 (marked as derived from R137 to R141 and R181): every instruction that writes VF as a flag leaves 0 or 1 there,
unless x = 0xF names VF itself. -/
def Obligations.FlagWritersLeaveZeroOrOne : Prop :=
  ∀ (x y : Reg) (n : Nibble) (s t : State) (i : Instr), x ≠ regF →
    i ∈ [Instr.addVxVy x y, .sub x y, .shr x y, .subn x y, .shl x y, .drw x y n] → exec i s = .next t →
    t.getV regF = 0 ∨ t.getV regF = 1

/-! ## Index register and memory (42_index_memory.md) -/

/-- R160, R161 and R162: LD I, ADD I and LD F. I is 16 bits and is not masked; no flag. ENC. -/
def Obligations.IndexLoads : Prop :=
  DecodesAs 0xF000 0xA000 (fun w => .ldI (fieldNNN w)) ∧
  DecodesAs 0xF0FF 0xF01E (fun w => .addIVx (fieldX w)) ∧
  DecodesAs 0xF0FF 0xF029 (fun w => .ldFVx (fieldX w)) ∧
  (∀ (nnn : Address) (s : State), ∃ t : State, exec (.ldI nnn) s = .next t ∧ t.i.toNat = nnn.toNat ∧
    ChangesOnlyI s t ∧ SameMemory s t) ∧
  (∀ (x : Reg) (s : State),
    (∃ t : State, exec (.addIVx x) s = .next t ∧ t.i.toNat = (s.i.toNat + (s.getV x).toNat) % 65536 ∧
      ChangesOnlyI s t ∧ SameMemory s t) ∧
    (∃ t : State, exec (.ldFVx x) s = .next t ∧ t.i.toNat = 0x050 + (s.getV x).toNat % 16 * 5 ∧
      ChangesOnlyI s t ∧ SameMemory s t))

/-- R163: LD B, Vx stores the three decimal digits at EA(0), EA(1), EA(2), and no other byte. The premise rules out only
memory lists no run reaches (StepKeepsInvariant). -/
def Obligations.StoreDecimalDigits : Prop :=
  DecodesAs 0xF0FF 0xF033 (fun w => .ldBVx (fieldX w)) ∧
  ∀ (x : Reg) (s : State), Memory.wf s.font s.mem → ∃ t : State, exec (.ldBVx x) s = .next t ∧ ChangesOnlyMem s t ∧
    (t.readByte (s.effectiveAddress 0)).toNat = (s.getV x).toNat / 100 ∧
    (t.readByte (s.effectiveAddress 1)).toNat = (s.getV x).toNat / 10 % 10 ∧
    (t.readByte (s.effectiveAddress 2)).toNat = (s.getV x).toNat % 10 ∧
    ∀ a, (∀ k < 3, a % 4096 ≠ s.effectiveAddress k) → t.readByte a = s.readByte a

/-- R164: LD [I], Vx stores V0 to Vx at EA(0) to EA(x), and no other byte; I is unchanged. ENC. -/
def Obligations.StoreRegisterBlock : Prop :=
  DecodesAs 0xF0FF 0xF055 (fun w => .ldMemVx (fieldX w)) ∧
  ∀ (x : Reg) (s : State), Memory.wf s.font s.mem → ∃ t : State, exec (.ldMemVx x) s = .next t ∧ ChangesOnlyMem s t ∧
    (∀ k : Reg, k.toNat ≤ x.toNat → t.readByte (s.effectiveAddress k.toNat) = s.getV k) ∧
    ∀ a, (∀ k ≤ x.toNat, a % 4096 ≠ s.effectiveAddress k) → t.readByte a = s.readByte a

/-- R165: LD Vx, [I] loads V0 to Vx from EA(0) to EA(x); registers above x, and I, are unchanged. ENC. -/
def Obligations.LoadRegisterBlock : Prop :=
  DecodesAs 0xF0FF 0xF065 (fun w => .ldVxMem (fieldX w)) ∧
  ∀ (x : Reg) (s : State), ∃ t : State, exec (.ldVxMem x) s = .next t ∧ ChangesOnlyV s t ∧ SameMemory s t ∧
    ∀ k : Reg, t.getV k = if k.toNat ≤ x.toNat then s.readByte (s.effectiveAddress k.toNat) else s.getV k

/-! ## Framebuffer (43_display.md) -/

/-- R180: CLS unlights every cell and writes nothing else, VF included. -/
def Obligations.ClearScreenUnlightsAll : Prop :=
  DecodesAs 0xFFFF 0x00E0 (fun _ => .cls) ∧
  ∀ s : State, ∃ t : State, exec .cls s = .next t ∧ (∀ c < 64, ∀ r < 32, cellAt t.fb c r = false) ∧
    ChangesOnlyFb s t ∧ SameMemory s t

/-- R181, R182: DRW flips exactly the cells a lit bit of the sprite covers, with wrapped coordinates (bit order D10, log 18),
and VF is 1 exactly when a lit cell was flipped, 0 otherwise, n = 0 included. -/
def Obligations.DrawFlipsCoveredCells : Prop :=
  ∀ (x y : Reg) (n : Nibble) (s : State), ∃ t : State, exec (.drw x y n) s = .next t ∧
    (∀ c < 64, ∀ r < 32, (s.DrawCovers x y n c r → cellAt t.fb c r = !cellAt s.fb c r) ∧
      (¬s.DrawCovers x y n c r → cellAt t.fb c r = cellAt s.fb c r)) ∧
    ((∃ c r, s.DrawCovers x y n c r ∧ cellAt s.fb c r = true) → t.getV regF = 1) ∧
    ((∀ c r, s.DrawCovers x y n c r → cellAt s.fb c r = false) → t.getV regF = 0) ∧
    SameRegistersBut [regF] s t ∧ ChangesOnlyFbAndV s t ∧ SameMemory s t

/-- Drawing one sprite twice at one place restores the framebuffer; if it lit a cell and hit none the first time, the second
draw collides (R181; 95 W11). -/
def Obligations.DrawTwiceRestores : Prop :=
  ∀ (x y : Reg) (n : Nibble) (s : State), x ≠ regF → y ≠ regF →
    ∃ t u : State, exec (.drw x y n) s = .next t ∧ exec (.drw x y n) t = .next u ∧
      (∀ c < 64, ∀ r < 32, cellAt u.fb c r = cellAt s.fb c r) ∧
      ((∃ c r, s.DrawCovers x y n c r) → t.getV regF = 0 → u.getV regF = 1)

/-! ## Keys, timers and the wait-key latch (44_keys_timers.md) -/

/-- R190 to R192: SKP and SKNP ask about the key in Vx's low nibble (the spec's decision D16, log 16), for every pattern of
held keys (D18). -/
def Obligations.SkipOnKey : Prop :=
  ∀ (x : Reg) (s : State),
    (∃ t : State, exec (.skp x) s = .next t ∧ ChangesOnlyPc s t ∧ SameMemory s t ∧
      t.pc.toNat = if s.env.inputs.keyHeld.getLsbD ((s.getV x).toNat % 16) = true
        then (s.pc.toNat + 2) % 4096 else s.pc.toNat) ∧
    (∃ t : State, exec (.sknp x) s = .next t ∧ ChangesOnlyPc s t ∧ SameMemory s t ∧
      t.pc.toNat = if s.env.inputs.keyHeld.getLsbD ((s.getV x).toNat % 16) = true
        then s.pc.toNat else (s.pc.toNat + 2) % 4096)

/-- R194 and R195: LD Vx, DT and LD DT, Vx; the latter is the only instruction that raises DT. ENC. -/
def Obligations.DelayTimerTransfers : Prop :=
  DecodesAs 0xF0FF 0xF007 (fun w => .ldVxDT (fieldX w)) ∧
  DecodesAs 0xF0FF 0xF015 (fun w => .ldDTVx (fieldX w)) ∧
  (∀ (x : Reg) (s : State), ∃ t : State, exec (.ldVxDT x) s = .next t ∧ t.getV x = s.dt ∧ SameRegistersBut [x] s t ∧
    ChangesOnlyV s t ∧ SameMemory s t) ∧
  (∀ (x : Reg) (s : State), ∃ t : State, exec (.ldDTVx x) s = .next t ∧ t.dt = s.getV x ∧ ChangesOnlyDt s t ∧
    SameMemory s t) ∧
  (∀ (i : Instr) (s t : State), exec i s = .next t → s.dt.toNat < t.dt.toNat → ∃ x, i = .ldDTVx x)

/-- R196: LD ST, Vx; its STEP makes no audio notification (the spec's decision D19), the next TICK does. -/
def Obligations.SoundTimerLoad : Prop :=
  (∀ (x : Reg) (s : State), ∃ t : State, exec (.ldSTVx x) s = .next t ∧ t.st = s.getV x ∧ ChangesOnlySt s t ∧
    SameMemory s t) ∧
  (∀ (s : State) (g : Option Inputs) (x : Reg), s.Executes g (.ldSTVx x) →
    ∃ t : State, step s = .next t ∧ t.out.audioValid = false ∧ t.st = s.getV x)

/-- R197: LD Vx, K sets LATCH to x and nothing else; its STEP leaves PC after the instruction and Vx as it was. -/
def Obligations.WaitForKeySetsLatch : Prop :=
  (∀ (x : Reg) (s : State), ∃ t : State, exec (.ldVxK x) s = .next t ∧ t.latch = some x ∧ ChangesOnlyLatch s t ∧
    SameMemory s t) ∧
  (∀ (s : State) (g : Option Inputs) (x : Reg), s.Executes g (.ldVxK x) →
    ∃ t : State, step s = .next t ∧ t.latch = some x ∧ t.pc.toNat = (s.pc.toNat + 2) % 4096 ∧ t.v = s.v)

/-- After LD Vx, K, a KEY(k) ends the wait: Vx is the key and execution is at the instruction after (R197, R199; the key is
4 bits wide by D15, log 15; the script is the model's, log 2). -/
def Obligations.KeyEndsWait : Prop :=
  ∀ (s : State) (g : Option Inputs) (x : Reg) (k : Nibble) (rest : List Command), s.Executes g (.ldVxK x) →
    s.env.script = .step g :: .key k :: rest →
    ∃ t u : State, step s = .next t ∧ step t = .next u ∧ u.latch = none ∧ (u.getV x).toNat = k.toNat ∧
      u.pc.toNat = (s.pc.toNat + 2) % 4096 ∧ SameRegistersBut [x] s u ∧ SameMemory s u

/-! ## The other commands (44_keys_timers.md R199 to R205, 70_reset_and_hazards.md) -/

/-- R203: TICK lowers each timer by one, never below 0, and notifies audio (D19), in both FSM states (D24,
log 15). Nothing else of the block changes; load_ok and miss_word hold (log 7). -/
def Obligations.TickCountsDown : Prop :=
  ∀ s : State, s.env.nextCommand = .tick → ∃ t : State, step s = .next t ∧ t.dt.toNat = s.dt.toNat - 1 ∧
    t.st.toNat = s.st.toNat - 1 ∧ t.out.audioValid = true ∧ (t.out.audioPause = true ↔ t.st = 0) ∧
    t.out.decodeMiss = false ∧ t.out.loadOk = s.out.loadOk ∧ t.out.missWord = s.out.missWord ∧
    t = { s with dt := t.dt, st := t.st, out := t.out, env := { s.env with script := s.env.script.tail } } ∧
    SameMemory s t

/-- R205 (marked as derived from R195, R196, R203): a timer at v reaches 0 after exactly v TICKs and stays there. -/
def Obligations.TicksReachZero : Prop :=
  ∀ (s : State) (k : Nat), (ticks k s).dt.toNat = s.dt.toNat - k ∧ (ticks k s).st.toNat = s.st.toNat - k

/-- R199, R200: KEY(k) writes the waiting register and clears LATCH; outside a wait it is ignored (D14, D15, log 15). -/
def Obligations.KeyDelivery : Prop :=
  ∀ (s : State) (k : Nibble), s.env.nextCommand = .key k →
    (∀ x, s.latch = some x → ∃ t : State, step s = .next t ∧ (t.getV x).toNat = k.toNat ∧ SameRegistersBut [x] s t ∧
      t = { s with v := t.v, latch := none, out := { s.out with audioValid := false, decodeMiss := false },
                   env := { s.env with script := s.env.script.tail } }) ∧
    (s.latch = none → step s = .next { s with
      out := { s.out with audioValid := false, decodeMiss := false },
      env := { s.env with script := s.env.script.tail } })

/-- R242, R243: LOAD copies at most 3584 bytes to 0x200 on, or is rejected whole; nothing but memory and load_ok changes
(D20, log 15). The premise rules out only memory lists no run reaches (StepKeepsInvariant). -/
def Obligations.LoadCopiesOrRejects : Prop :=
  ∀ (s : State) (data : List Byte), Memory.wf s.font s.mem → s.env.nextCommand = .load data →
    ∃ t : State, step s = .next t ∧
      (3584 < data.length → t.out.loadOk = false ∧ t.mem = s.mem) ∧
      (data.length ≤ 3584 → t.out.loadOk = true ∧
        (∀ (j : Nat) (h : j < data.length), t.readByte (0x200 + j) = data[j]) ∧
        ∀ a < 4096, a < 0x200 ∨ 0x200 + data.length ≤ a → t.readByte a = s.readByte a) ∧
      t.out.audioValid = false ∧ t.out.decodeMiss = false ∧
      t = { s with mem := t.mem, out := t.out, env := { s.env with script := s.env.script.tail } }

/-- R240: RESET from any state. The zeros are the spec's decision D12 (log 5), the font bytes the machine's own
parameter FONT, any 80 bytes (R10, log 4). -/
def Obligations.ResetCommandRecreatesState : Prop :=
  ∀ s : State, s.env.nextCommand = .reset → ∃ t : State, step s = .next t ∧ t.pc = 0x200 ∧ t.i = 0 ∧ t.sp.val = 0 ∧
    t.dt = 0 ∧ t.st = 0 ∧ t.latch = none ∧ (∀ x, t.getV x = 0) ∧ (∀ j : Fin 16, t.stack[j.val]'j.isLt = 0) ∧
    (∀ c < 64, ∀ r < 32, cellAt t.fb c r = false) ∧ t.font = s.font ∧
    (∀ j : Fin 80, t.readByte (0x050 + j.val) = s.font[j.val]'j.isLt) ∧
    (∀ a < 4096, a < 0x050 ∨ 0x0A0 ≤ a → t.readByte a = 0x00) ∧ t.out.decodeMiss = false ∧ t.out.audioValid = false ∧
    t.out.loadOk = false ∧ t.env.script = s.env.script.tail

/-- R241: after reset the entry point is 0x200, the FSM is in RUN (LATCH none after reset is the spec's decision D12, log 5)
and the font stands at 0x050 to 0x09F, for every FONT (R10). The first clause is the model's choice, no rule's: State.reset
takes the default FONT of D11 (log 4, PRESUMED). -/
def Obligations.ResetEntryPointAndFont : Prop :=
  State.reset = State.resetWith defaultFont ∧
  ∀ font : Font, (State.resetWith font).pc = 0x200 ∧ (State.resetWith font).latch = none ∧
    ∀ j : Fin 80, (State.resetWith font).readByte (0x050 + j.val) = font[j.val]'j.isLt

/-- R244: from reset, whatever FONT is, the environment's LOAD puts the program where the first STEP fetches (log 3). -/
def Obligations.BootFetchesProgram : Prop :=
  ∀ (font : Font) (b c : Byte) (data : List Byte) (rest : List Command), data.length + 2 ≤ 3584 →
    ∃ t : State, step ((State.resetWith font).setEnv { Environment.reset with script := .load (b :: c :: data) :: rest }) =
        .next t ∧
      t.out.loadOk = true ∧ t.pc = 0x200 ∧ t.latch = none ∧ t.fetch = b ++ c ∧ t.env.script = rest

/-! ## The whole machine -/

/-- 10_state.md R22, column "writes V": no instruction writes a register its row does not list. -/
def Obligations.RegistersWrittenAsTabled : Prop :=
  ∀ (i : Instr) (s t : State) (r : Reg), exec i s = .next t → writesV i r = false → t.getV r = s.getV r

/-- 10_state.md R35, R33 and 20_memory.md R53: no instruction writes a register, memory or the framebuffer that its row does
not list, and none writes a report, the parameter FONT or the environment. -/
def Obligations.ComponentsWrittenAsTabled : Prop :=
  ∀ (i : Instr) (s t : State) (c : Component), exec i s = .next t →
    (mayWrite i c = false → Unchanged s t c) ∧ t.out = s.out ∧ t.font = s.font ∧ t.env = s.env

/-- 10_state.md R22, column "reads V": what an instruction does depends on the listed registers alone. Two states that differ
only in other registers end equal but for V, and equal in every register written. -/
def Obligations.ResultsDependOnReadRegistersOnly : Prop :=
  ∀ (i : Instr) (s s' t t' : State), s' = { s with v := s'.v } → (∀ r, readsV i r = true → s'.getV r = s.getV r) →
    exec i s = .next t → exec i s' = .next t' →
    t' = { t with v := t'.v } ∧ ∀ r, writesV i r = true → t'.getV r = t.getV r

/-- 40_control_flow.md R115: only SKP and SKNP depend on key_held, only RND on rnd. -/
def Obligations.InputsReadAsTabled : Prop :=
  ∀ (i : Instr) (s t : State) (p : Inputs), exec i s = .next t →
    ((∀ x, i ≠ .skp x) → (∀ x, i ≠ .sknp x) →
      exec i (s.setEnv { s.env with inputs := { s.env.inputs with keyHeld := p.keyHeld } }) =
        .next (t.setEnv { s.env with inputs := { s.env.inputs with keyHeld := p.keyHeld } })) ∧
    ((∀ x kk, i ≠ .rnd x kk) →
      exec i (s.setEnv { s.env with inputs := { s.env.inputs with rnd := p.rnd } }) =
        .next (t.setEnv { s.env with inputs := { s.env.inputs with rnd := p.rnd } }))

/-- 40_control_flow.md R102: every step moves the FSM as the table says (D13, D14, D20, D24; log 15). -/
def Obligations.FsmFollowsTable : Prop :=
  ∀ s t : State, step s = .next t → t.latch = nextLatch s.latch s.env.nextCommand s.instrAtPc

/-- 10_state.md R31: only LD_DT_Vx changes DT and only LD_ST_Vx changes ST among STEPs, TICK never raises them, RESET sets
them, and no other command touches them: they never rise but by those loads. -/
def Obligations.TimersChangeOnlyByLoadsAndTicks : Prop :=
  ∀ s t : State, step s = .next t →
    (s.dt.toNat < t.dt.toNat → ∃ g x, s.Executes g (.ldDTVx x)) ∧
    (s.st.toNat < t.st.toNat → ∃ g x, s.Executes g (.ldSTVx x)) ∧
    (t.dt ≠ s.dt → s.env.nextCommand = .tick ∨ s.env.nextCommand = .reset ∨ ∃ g x, s.Executes g (.ldDTVx x)) ∧
    (t.st ≠ s.st → s.env.nextCommand = .tick ∨ s.env.nextCommand = .reset ∨ ∃ g x, s.Executes g (.ldSTVx x)) ∧
    (s.env.nextCommand = .tick → (0 < s.dt.toNat → t.dt.toNat < s.dt.toNat) ∧ (0 < s.st.toNat → t.st.toNat < s.st.toNat)) ∧
    (s.env.nextCommand = .reset → t.dt = State.reset.dt ∧ t.st = State.reset.st)

/-- 10_state.md R43, R44: audio_valid is 1 after a TICK only, decode_miss after a STEP of an UNKNOWN word only, and then
miss_word is the word (D19, D22). -/
def Obligations.ReportsFollowCommands : Prop :=
  ∀ s t : State, step s = .next t →
    (t.out.audioValid = true ↔ s.env.nextCommand = .tick) ∧
    (t.out.decodeMiss = true ↔ ∃ g, s.StepsNext g ∧ decode s.fetch = .unknown s.fetch) ∧
    (t.out.decodeMiss = true → t.out.missWord = s.fetch)

/-- 10_state.md R45: the outputs waiting and wait_reg. -/
def Obligations.WaitPortsShowLatch : Prop :=
  ∀ s : State, (s.waiting = true ↔ s.latch ≠ none) ∧ (∀ x, s.latch = some x → s.waitReg = x) ∧
    (s.waiting = false → s.waitReg = 0)

/-- 60_exceptions.md R213 (the command port is the spec's decision D1): TICK, KEY and LOAD leave PC; and 40_control_flow.md
R101 (the spec's decision D13, log 15): so does a STEP while a key is awaited. A step that moves PC is thus a STEP in RUN or a
RESET. -/
def Obligations.OnlyStepAndResetMovePc : Prop :=
  ∀ s t : State, step s = .next t → t.pc ≠ s.pc → s.env.nextCommand = .reset ∨ ∃ g, s.StepsNext g

/-- 43_display.md R184: the render port shows the framebuffer, and only a STEP of CLS or DRW, and RESET, change it. -/
def Obligations.FramebufferChangesOnlyByDrawing : Prop :=
  (∀ (s : State), ∀ c < 64, ∀ r < 32, s.fbPort.getLsbD (r * 64 + c) = cellAt s.fb c r) ∧
  ∀ s t : State, step s = .next t → (∃ c < 64, ∃ r < 32, cellAt t.fb c r ≠ cellAt s.fb c r) →
    s.env.nextCommand = .reset ∨ ∃ g i, s.Executes g i ∧ (i = .cls ∨ ∃ x y n, i = .drw x y n)

/-- 20_memory.md R53: a STEP of any other instruction than LD_B_Vx and LD_MEM_Vx, a TICK and a KEY leave every byte; a store
reaches only EA(0) to EA(15) (addresses modulo 4096: D2, log 10; LOAD: D20, log 15). -/
def Obligations.MemoryChangesOnlyByStoresAndLoads : Prop :=
  ∀ s t : State, Memory.wf s.font s.mem → step s = .next t → ∀ a, t.readByte a ≠ s.readByte a →
    s.env.nextCommand = .reset ∨ (∃ data, s.env.nextCommand = .load data ∧ 0x200 ≤ a % 4096) ∨
    ∃ g x k, (s.Executes g (.ldBVx x) ∧ k < 3 ∨ s.Executes g (.ldMemVx x) ∧ k ≤ x.toNat) ∧
      a % 4096 = s.effectiveAddress k
end

