-- ==== Sys2Proof/Laws/Decode.lean ====
section
/-! SUPPORT. The fields of an encoded word (30_encoding.md R70, R71), and words as bytes. -/

namespace Sys2Proof

theorem fieldFamily_encodeNNN (f : Nibble) (a : Address) : fieldFamily (encodeNNN f a) = f := by
  ext i hi
  simp only [fieldFamily, encodeNNN, BitVec.getElem_extractLsb', BitVec.getLsbD_append]
  simp [show ¬(12 + i < 12) by omega, hi]

theorem fieldNNN_encodeNNN (f : Nibble) (a : Address) : fieldNNN (encodeNNN f a) = a := by
  ext i hi
  simp only [fieldNNN, encodeNNN, BitVec.getElem_extractLsb', BitVec.getLsbD_append]
  simp [hi]

theorem fieldFamily_encodeXKK (f : Nibble) (x : Reg) (k : Byte) : fieldFamily (encodeXKK f x k) = f := by
  ext i hi
  simp only [fieldFamily, encodeXKK, BitVec.getElem_extractLsb', BitVec.getLsbD_append]
  simp [show ¬(12 + i < 8) by omega, show ¬(12 + i - 8 < 4) by omega, show 12 + i - 8 - 4 = i by omega, hi]

theorem fieldX_encodeXKK (f : Nibble) (x : Reg) (k : Byte) : fieldX (encodeXKK f x k) = x := by
  ext i hi
  simp only [fieldX, encodeXKK, BitVec.getElem_extractLsb', BitVec.getLsbD_append]
  simp [show ¬(8 + i < 8) by omega, show 8 + i - 8 = i by omega, hi]

theorem fieldKK_encodeXKK (f : Nibble) (x : Reg) (k : Byte) : fieldKK (encodeXKK f x k) = k := by
  ext i hi
  simp only [fieldKK, encodeXKK, BitVec.getElem_extractLsb', BitVec.getLsbD_append]
  simp [hi]

theorem fieldFamily_encodeXYN (f : Nibble) (x y : Reg) (n : Nibble) : fieldFamily (encodeXYN f x y n) = f := by
  ext i hi
  simp only [fieldFamily, encodeXYN, BitVec.getElem_extractLsb', BitVec.getLsbD_append]
  simp [show ¬(12 + i < 4) by omega, show ¬(12 + i - 4 < 4) by omega, show ¬(12 + i - 4 - 4 < 4) by omega,
    show 12 + i - 4 - 4 - 4 = i by omega, hi]

theorem fieldX_encodeXYN (f : Nibble) (x y : Reg) (n : Nibble) : fieldX (encodeXYN f x y n) = x := by
  ext i hi
  simp only [fieldX, encodeXYN, BitVec.getElem_extractLsb', BitVec.getLsbD_append]
  simp [show ¬(8 + i < 4) by omega, show ¬(8 + i - 4 < 4) by omega, show 8 + i - 4 - 4 = i by omega, hi]

theorem fieldY_encodeXYN (f : Nibble) (x y : Reg) (n : Nibble) : fieldY (encodeXYN f x y n) = y := by
  ext i hi
  simp only [fieldY, encodeXYN, BitVec.getElem_extractLsb', BitVec.getLsbD_append]
  simp [show ¬(4 + i < 4) by omega, show 4 + i - 4 = i by omega, hi]

theorem fieldN_encodeXYN (f : Nibble) (x y : Reg) (n : Nibble) : fieldN (encodeXYN f x y n) = n := by
  ext i hi
  simp only [fieldN, encodeXYN, BitVec.getElem_extractLsb', BitVec.getLsbD_append]
  simp [hi]

/-! ## Fields of a masked word, and a word from its fields -/

theorem fieldFamily_and (w m : Word) : fieldFamily (w &&& m) = fieldFamily w &&& fieldFamily m := by
  simp only [fieldFamily, BitVec.extractLsb'_and]

theorem fieldX_and (w m : Word) : fieldX (w &&& m) = fieldX w &&& fieldX m := by
  simp only [fieldX, BitVec.extractLsb'_and]

theorem fieldN_and (w m : Word) : fieldN (w &&& m) = fieldN w &&& fieldN m := by
  simp only [fieldN, BitVec.extractLsb'_and]

theorem fieldKK_and (w m : Word) : fieldKK (w &&& m) = fieldKK w &&& fieldKK m := by
  simp only [fieldKK, BitVec.extractLsb'_and]

/-- A word is its family and nnn fields (30_encoding.md R70). -/
theorem encodeNNN_fields (w : Word) : encodeNNN (fieldFamily w) (fieldNNN w) = w := by
  apply BitVec.eq_of_getLsbD_eq
  intro i hi
  simp only [encodeNNN, fieldFamily, fieldNNN, BitVec.getLsbD_append, BitVec.getLsbD_extractLsb']
  by_cases h : i < 12
  · simp [h]
  · simp [h, show i - 12 < 4 by omega, show 12 + (i - 12) = i by omega]

/-- A word is its family, x and kk fields (30_encoding.md R70). -/
theorem encodeXKK_fields (w : Word) : encodeXKK (fieldFamily w) (fieldX w) (fieldKK w) = w := by
  apply BitVec.eq_of_getLsbD_eq
  intro i hi
  simp only [encodeXKK, fieldFamily, fieldX, fieldKK, BitVec.getLsbD_append, BitVec.getLsbD_extractLsb']
  by_cases h : i < 8
  · simp [h]
  · by_cases h' : i - 8 < 4
    · simp [h, h', show 8 + (i - 8) = i by omega]
    · simp [h, h', show i - 8 - 4 < 4 by omega, show 12 + (i - 8 - 4) = i by omega]

/-- A word is its family, x, y and n fields (30_encoding.md R70). -/
theorem encodeXYN_fields (w : Word) : encodeXYN (fieldFamily w) (fieldX w) (fieldY w) (fieldN w) = w := by
  apply BitVec.eq_of_getLsbD_eq
  intro i hi
  simp only [encodeXYN, fieldFamily, fieldX, fieldY, fieldN, BitVec.getLsbD_append, BitVec.getLsbD_extractLsb']
  by_cases h : i < 4
  · simp [h]
  · by_cases h' : i - 4 < 4
    · simp [h, h', show 4 + (i - 4) = i by omega]
    · have h8 : ¬i < 8 := by omega
      by_cases h'' : i - 4 - 4 < 4
      · simp [h, h', h'', show 8 + (i - 4 - 4) = i by omega]
      · simp [h, h', h'', show i - 4 - 4 - 4 < 4 by omega, show 12 + (i - 4 - 4 - 4) = i by omega]

/-! ## Words and bytes -/

/-- A word survives being stored as two bytes and fetched (20_memory.md R54, R55). -/
theorem bytesWord_wordBytes (w : Word) : bytesWord (wordBytes w).1 (wordBytes w).2 = w := by
  apply BitVec.eq_of_getLsbD_eq
  intro i hi
  simp only [bytesWord, wordBytes, BitVec.getLsbD_append, BitVec.getLsbD_extractLsb']
  by_cases h : i < 8
  · simp [h]
  · simp [h, show i - 8 < 8 by omega, show 8 + (i - 8) = i by omega]

/-- A word of the table decodes as the word itself does. -/
theorem decodeTableWord_of_instr {nbits w : Nat} {i : Instr} (h : decode (tableWord nbits w) = .instr i) :
    decodeTableWord nbits w = some i := by simp [decodeTableWord, bytesWord_wordBytes, h]

end Sys2Proof
end

