-- ==== Sys2Proof/Laws/Display.lean ====
section
/-! SUPPORT. The pixel datapath, cell by cell (43_display.md R182), then a sprite row, then a whole sprite. -/

namespace Sys2Proof.Machine

theorem drawColumn_lt (x0 : Byte) (col : Nat) : drawColumn x0 col < 64 := Nat.mod_lt _ (by decide)

theorem drawLine_lt (y0 : Byte) (row : Nat) : drawLine y0 row < 32 := Nat.mod_lt _ (by decide)

/-- The eight columns of a sprite are distinct (R183). -/
theorem drawColumn_inj {x0 : Byte} {a b : Nat} (ha : a < 8) (hb : b < 8) (h : drawColumn x0 a = drawColumn x0 b) :
    a = b := by
  simp only [drawColumn] at h; omega

/-- The rows of a sprite are distinct (R183). -/
theorem drawLine_inj {y0 : Byte} {a b : Nat} (ha : a < 16) (hb : b < 16) (h : drawLine y0 a = drawLine y0 b) : a = b := by
  simp only [drawLine] at h; omega

/-- Cells are numbered without collision (10_state.md R33). -/
theorem cellIndex_inj {c r c' r' : Nat} (hc : c < 64) (hc' : c' < 64) (h : cellIndex c r = cellIndex c' r') :
    c = c' ∧ r = r' := by
  simp only [cellIndex] at h; omega

/-- What the datapath's write does, as cell reads see it. -/
theorem cellAt_xorCell (f : Framebuffer) {c r c' r' : Nat} (s : Bool) (hc : c < 64) (hr : r < 32) (hc' : c' < 64) :
    cellAt (xorCell f c r s) c' r' = (cellAt f c' r' ^^ (s && decide (c' = c ∧ r' = r))) := by
  cases s
  · simp [xorCell]
  · have hi : cellIndex c r < 2048 := by simp only [cellIndex]; omega
    have : (cellIndex c r = cellIndex c' r') ↔ (c' = c ∧ r' = r) :=
      ⟨fun h => (cellIndex_inj hc hc' h).imp Eq.symm Eq.symm, fun ⟨h, h'⟩ => by rw [h, h']⟩
    simp only [xorCell, cellAt, if_true, BitVec.getLsbD_xor, BitVec.getLsbD_twoPow, hi, decide_true, Bool.true_and]
    congr 1
    exact decide_eq_decide.mpr this

/-- What columns 0 to k-1 of one sprite row do: each lit bit flips its cell, and a lit cell flipped is a hit. -/
theorem drawColumns_spec (d : Drawing) (x0 : Byte) {r : Nat} (b : Byte) {k : Nat} (hr : r < 32) (hk : k ≤ 8) :
    (∀ c < 64, ∀ r', cellAt (drawColumns d x0 r b k).fb c r' =
      (cellAt d.fb c r' ^^ decide (r' = r ∧ ∃ col < k, c = drawColumn x0 col ∧ spriteBit b col = true))) ∧
    ((drawColumns d x0 r b k).hit = true ↔
      d.hit = true ∨ ∃ col < k, spriteBit b col = true ∧ cellAt d.fb (drawColumn x0 col) r = true) := by
  induction k with
  | zero => simp [drawColumns]
  | succ k ih =>
    obtain ⟨cells, hits⟩ := ih (by omega)
    have fresh : ¬∃ col < k, drawColumn x0 k = drawColumn x0 col ∧ spriteBit b col = true := by
      rintro ⟨col, hcol, h, -⟩
      exact absurd (drawColumn_inj (by omega) (by omega) h) (by omega)
    refine ⟨fun c hc r' => ?_, ?_⟩
    · rw [drawColumns, drawPixel, cellAt_xorCell _ _ (drawColumn_lt _ _) hr hc, cells c hc, Bool.xor_assoc]
      congr 1
      by_cases hck : c = drawColumn x0 k
      · subst hck
        simp only [fresh, and_false, decide_false, Bool.false_xor, true_and]
        rw [Bool.eq_iff_iff]
        simp only [Bool.and_eq_true, decide_eq_true_eq]
        constructor
        · rintro ⟨hb, h⟩; exact ⟨h, k, Nat.lt_succ_self k, rfl, hb⟩
        · rintro ⟨h, col, hcol, he, hb⟩
          exact ⟨drawColumn_inj (by omega) (by omega) he ▸ hb, h⟩
      · simp only [hck, false_and, decide_false, Bool.and_false, Bool.xor_false]
        refine decide_eq_decide.mpr (and_congr_right fun _ => ?_)
        constructor
        · rintro ⟨col, hcol, h⟩; exact ⟨col, by omega, h⟩
        · rintro ⟨col, hcol, h, hb⟩
          exact ⟨col, lt_of_le_of_ne (by omega) fun e => hck (e ▸ h), h, hb⟩
    · rw [drawColumns, drawPixel]
      simp only [Bool.or_eq_true, Bool.and_eq_true, hits, cells _ (drawColumn_lt x0 k), fresh, and_false, decide_false,
        Bool.xor_false]
      constructor
      · rintro ((h | ⟨col, hcol, h⟩) | ⟨h, hb⟩)
        · exact .inl h
        · exact .inr ⟨col, by omega, h⟩
        · exact .inr ⟨k, Nat.lt_succ_self k, hb, h⟩
      · rintro (h | ⟨col, hcol, hb, h⟩)
        · exact .inl (.inl h)
        · rcases Nat.lt_succ_iff_lt_or_eq.mp hcol with hcol | rfl
          · exact .inl (.inr ⟨col, hcol, hb, h⟩)
          · exact .inr ⟨h, hb⟩

open Classical in
/-- What rows 0 to k-1 of a sprite do: each lit bit flips its cell once, and the hits are collected over the sprite. -/
theorem drawRows_spec (d : Drawing) (x0 y0 : Byte) (sprite : Nat → Byte) {k : Nat} (hk : k ≤ 16) :
    (∀ c < 64, ∀ r, cellAt (drawRows d x0 y0 sprite k).fb c r =
      (cellAt d.fb c r ^^ decide (SpriteCovers x0 y0 sprite k c r))) ∧
    ((drawRows d x0 y0 sprite k).hit = true ↔
      d.hit = true ∨ ∃ row < k, ∃ col < 8, spriteBit (sprite row) col = true ∧
        cellAt d.fb (drawColumn x0 col) (drawLine y0 row) = true) := by
  induction k with
  | zero => simp [drawRows, SpriteCovers]
  | succ k ih =>
    obtain ⟨cells, hits⟩ := ih (by omega)
    obtain ⟨cells', hits'⟩ :=
      drawColumns_spec (drawRows d x0 y0 sprite k) x0 (sprite k) (drawLine_lt y0 k) (le_refl 8)
    have fresh : ∀ c, ¬SpriteCovers x0 y0 sprite k c (drawLine y0 k) := by
      rintro c ⟨row, hrow, col, hcol, -, h, -⟩
      exact absurd (drawLine_inj (y0 := y0) (a := k) (by omega) (by omega) h) (by omega)
    refine ⟨fun c hc r => ?_, ?_⟩
    · rw [drawRows, cells' c hc, cells c hc, Bool.xor_assoc]
      congr 1
      by_cases hr : r = drawLine y0 k
      · subst hr
        simp only [fresh c, decide_false, Bool.false_xor, true_and]
        refine decide_eq_decide.mpr ⟨?_, ?_⟩
        · rintro ⟨col, hcol, hx, hb⟩
          exact ⟨k, Nat.lt_succ_self k, col, hcol, hx, rfl, hb⟩
        · rintro ⟨row, hrow, col, hcol, hx, he, hb⟩
          exact ⟨col, hcol, hx, drawLine_inj (y0 := y0) (a := k) (by omega) (by omega) he ▸ hb⟩
      · simp only [hr, false_and, decide_false, Bool.xor_false]
        refine decide_eq_decide.mpr ⟨?_, ?_⟩
        · rintro ⟨row, hrow, h⟩; exact ⟨row, by omega, h⟩
        · rintro ⟨row, hrow, col, hcol, hx, h, hb⟩
          exact ⟨row, lt_of_le_of_ne (by omega) fun e => hr (e ▸ h), col, hcol, hx, h, hb⟩
    · rw [drawRows, hits', hits]
      simp only [cells _ (drawColumn_lt x0 _), fresh, decide_false, Bool.xor_false]
      constructor
      · rintro ((h | ⟨row, hrow, h⟩) | ⟨col, hcol, h⟩)
        · exact .inl h
        · exact .inr ⟨row, by omega, h⟩
        · exact .inr ⟨k, Nat.lt_succ_self k, col, hcol, h⟩
      · rintro (h | ⟨row, hrow, h⟩)
        · exact .inl (.inl h)
        · rcases Nat.lt_succ_iff_lt_or_eq.mp hrow with hrow | rfl
          · exact .inl (.inr ⟨row, hrow, h⟩)
          · exact .inr h

end Sys2Proof.Machine
end

