-- ==== Sys2Proof/Laws/Memory.lean ====
section
/-! SUPPORT. The laws of the memory list: read after write, and the canonical form that every operation keeps
(20_memory.md R50, R57; log 14). -/

namespace Sys2Proof.Machine

variable {f : Font}

/-- An unlisted address of the font range reads as its byte of FONT (20_memory.md R58). -/
theorem Memory.unlisted_font (f : Font) (j : Fin 80) : Memory.unlisted f (0x050 + j.val) = f[j.val]'j.isLt := by
  have := j.isLt
  rw [Memory.unlisted, dif_pos (by omega)]
  simp

/-- Any other unlisted address reads as 0 (20_memory.md R58). -/
theorem Memory.unlisted_outside (f : Font) {a : Nat} (h : a < 0x050 ∨ 0x0A0 ≤ a) : Memory.unlisted f a = 0x00 := by
  rw [Memory.unlisted, dif_neg (by omega)]

/-- The empty list is canonical: memory right after reset. -/
theorem Memory.wf_nil : Memory.wf f [] := ⟨List.Pairwise.nil, by simp⟩

theorem Memory.wf_tail {p : Host.Cell} {m : Memory} (h : Memory.wf f (p :: m)) : Memory.wf f m :=
  ⟨(List.pairwise_cons.mp h.1).2, fun q hq => h.2 q (List.mem_cons_of_mem _ hq)⟩

/-- An address below every listed one reads as its unlisted byte. -/
theorem Memory.read_of_lt {m : Memory} {a : Nat} (h : ∀ p ∈ m, a < p.1) : Memory.read f m a = Memory.unlisted f a := by
  induction m with
  | nil => rfl
  | cons p m ih =>
    have hne : a ≠ p.1 := (h p (List.mem_cons_self ..)).ne
    simpa [Memory.read, hne] using ih fun q hq => h q (List.mem_cons_of_mem _ hq)

/-- What the list holds after a write: the entries it held, and at most the new one. -/
theorem Memory.mem_write {m : Memory} {a : Nat} {x : Byte} {p : Host.Cell} (h : p ∈ Memory.write f m a x) :
    p ∈ m ∨ (p = (a, x) ∧ x ≠ Memory.unlisted f a) := by
  induction m with
  | nil =>
    by_cases hx : x = Memory.unlisted f a <;> simp_all [Memory.write]
  | cons q m ih =>
    obtain ⟨b, y⟩ := q
    simp only [Memory.write] at h
    split at h
    · split at h <;> simp_all
      tauto
    · split at h
      · split at h <;> simp_all
        tauto
      · rcases List.mem_cons.mp h with h | h
        · exact Or.inl (h ▸ List.mem_cons_self ..)
        · exact (ih h).imp_left (List.mem_cons_of_mem _)

/-- A write keeps the canonical form. -/
theorem Memory.write_wf {m : Memory} {a : Nat} {x : Byte} (ha : a < 4096) (h : Memory.wf f m) :
    Memory.wf f (Memory.write f m a x) := by
  refine ⟨?_, fun p hp => ?_⟩
  · induction m with
    | nil => by_cases hx : x = Memory.unlisted f a <;> simp [Memory.write, hx]
    | cons q m ih =>
      obtain ⟨b, y⟩ := q
      have hb := (List.pairwise_cons.mp h.1).1
      have hm := (List.pairwise_cons.mp h.1).2
      simp only [Memory.write]
      split
      · next hab =>
        split
        · exact h.1
        · refine List.pairwise_cons.mpr ⟨fun p hp => ?_, h.1⟩
          rcases List.mem_cons.mp hp with rfl | hp
          · exact hab
          · exact hab.trans (hb p hp)
      · split
        · next hab =>
          split
          · exact hm
          · exact List.pairwise_cons.mpr ⟨fun p hp => hab ▸ hb p hp, hm⟩
        · refine List.pairwise_cons.mpr ⟨fun p hp => ?_, ih (Memory.wf_tail h)⟩
          rcases Memory.mem_write hp with hp | ⟨rfl, -⟩
          · exact hb p hp
          · simp only; omega
  · rcases Memory.mem_write hp with hp | ⟨rfl, hx⟩
    · exact h.2 p hp
    · exact ⟨ha, hx⟩

/-- Everything a write does, as reads see it. -/
theorem Memory.read_write {m : Memory} (h : Memory.wf f m) (a b : Nat) (x : Byte) :
    Memory.read f (Memory.write f m a x) b = if b = a then x else Memory.read f m b := by
  induction m with
  | nil =>
    by_cases hx : x = Memory.unlisted f a <;> by_cases hb : b = a <;> simp_all [Memory.write, Memory.read]
  | cons q m ih =>
    obtain ⟨c, y⟩ := q
    have hc := (List.pairwise_cons.mp h.1).1
    have low : ∀ {d : Nat}, d ≤ c → Memory.read f m d = Memory.unlisted f d := fun hd =>
      Memory.read_of_lt fun p hp => lt_of_le_of_lt hd (hc p hp)
    simp only [Memory.write]
    split
    · next hac =>
      split
      · next hx =>
        by_cases hb : b = a
        · subst hb; simp [Memory.read, hac.ne, low hac.le, hx]
        · simp [hb]
      · by_cases hb : b = a <;> simp [Memory.read, hb]
    · split
      · next hac =>
        subst hac
        split
        · next hx =>
          by_cases hb : b = a
          · subst hb; simp [low le_rfl, hx]
          · simp [Memory.read, hb]
        · by_cases hb : b = a <;> simp [Memory.read, hb]
      · next hne hac =>
        have hi := ih (Memory.wf_tail h)
        by_cases hb : b = c
        · have hca : ¬ c = a := fun e => hac e.symm
          subst hb; simp [Memory.read, hca]
        · simp [Memory.read, hb, hi]

end Sys2Proof.Machine
end

