-- ==== Sys2Proof/Laws/State.lean ====
section
/-! SUPPORT. One lemma per field per primitive update of State, each true by rfl. -/

namespace Sys2Proof.Machine

variable (s : State)

@[simp] theorem State.setV_v (x : Reg) (b : Byte) : (s.setV x b).v = s.v.set x.toNat b x.isLt := rfl
@[simp] theorem State.setV_i (x : Reg) (b : Byte) : (s.setV x b).i = s.i := rfl
@[simp] theorem State.setV_pc (x : Reg) (b : Byte) : (s.setV x b).pc = s.pc := rfl
@[simp] theorem State.setV_stack (x : Reg) (b : Byte) : (s.setV x b).stack = s.stack := rfl
@[simp] theorem State.setV_sp (x : Reg) (b : Byte) : (s.setV x b).sp = s.sp := rfl
@[simp] theorem State.setV_dt (x : Reg) (b : Byte) : (s.setV x b).dt = s.dt := rfl
@[simp] theorem State.setV_st (x : Reg) (b : Byte) : (s.setV x b).st = s.st := rfl
@[simp] theorem State.setV_latch (x : Reg) (b : Byte) : (s.setV x b).latch = s.latch := rfl
@[simp] theorem State.setV_fb (x : Reg) (b : Byte) : (s.setV x b).fb = s.fb := rfl
@[simp] theorem State.setV_mem (x : Reg) (b : Byte) : (s.setV x b).mem = s.mem := rfl
@[simp] theorem State.setV_font (x : Reg) (b : Byte) : (s.setV x b).font = s.font := rfl
@[simp] theorem State.setV_out (x : Reg) (b : Byte) : (s.setV x b).out = s.out := rfl
@[simp] theorem State.setV_env (x : Reg) (b : Byte) : (s.setV x b).env = s.env := rfl

@[simp] theorem State.setI_v (a : Word) : (s.setI a).v = s.v := rfl
@[simp] theorem State.setI_i (a : Word) : (s.setI a).i = a := rfl
@[simp] theorem State.setI_pc (a : Word) : (s.setI a).pc = s.pc := rfl
@[simp] theorem State.setI_stack (a : Word) : (s.setI a).stack = s.stack := rfl
@[simp] theorem State.setI_sp (a : Word) : (s.setI a).sp = s.sp := rfl
@[simp] theorem State.setI_dt (a : Word) : (s.setI a).dt = s.dt := rfl
@[simp] theorem State.setI_st (a : Word) : (s.setI a).st = s.st := rfl
@[simp] theorem State.setI_latch (a : Word) : (s.setI a).latch = s.latch := rfl
@[simp] theorem State.setI_fb (a : Word) : (s.setI a).fb = s.fb := rfl
@[simp] theorem State.setI_mem (a : Word) : (s.setI a).mem = s.mem := rfl
@[simp] theorem State.setI_font (a : Word) : (s.setI a).font = s.font := rfl
@[simp] theorem State.setI_out (a : Word) : (s.setI a).out = s.out := rfl
@[simp] theorem State.setI_env (a : Word) : (s.setI a).env = s.env := rfl

@[simp] theorem State.setPc_v (a : Word) : (s.setPc a).v = s.v := rfl
@[simp] theorem State.setPc_i (a : Word) : (s.setPc a).i = s.i := rfl
@[simp] theorem State.setPc_pc (a : Word) : (s.setPc a).pc = a &&& 0x0FFF#16 := rfl
@[simp] theorem State.setPc_stack (a : Word) : (s.setPc a).stack = s.stack := rfl
@[simp] theorem State.setPc_sp (a : Word) : (s.setPc a).sp = s.sp := rfl
@[simp] theorem State.setPc_dt (a : Word) : (s.setPc a).dt = s.dt := rfl
@[simp] theorem State.setPc_st (a : Word) : (s.setPc a).st = s.st := rfl
@[simp] theorem State.setPc_latch (a : Word) : (s.setPc a).latch = s.latch := rfl
@[simp] theorem State.setPc_fb (a : Word) : (s.setPc a).fb = s.fb := rfl
@[simp] theorem State.setPc_mem (a : Word) : (s.setPc a).mem = s.mem := rfl
@[simp] theorem State.setPc_font (a : Word) : (s.setPc a).font = s.font := rfl
@[simp] theorem State.setPc_out (a : Word) : (s.setPc a).out = s.out := rfl
@[simp] theorem State.setPc_env (a : Word) : (s.setPc a).env = s.env := rfl

@[simp] theorem State.setDt_v (b : Byte) : (s.setDt b).v = s.v := rfl
@[simp] theorem State.setDt_i (b : Byte) : (s.setDt b).i = s.i := rfl
@[simp] theorem State.setDt_pc (b : Byte) : (s.setDt b).pc = s.pc := rfl
@[simp] theorem State.setDt_stack (b : Byte) : (s.setDt b).stack = s.stack := rfl
@[simp] theorem State.setDt_sp (b : Byte) : (s.setDt b).sp = s.sp := rfl
@[simp] theorem State.setDt_dt (b : Byte) : (s.setDt b).dt = b := rfl
@[simp] theorem State.setDt_st (b : Byte) : (s.setDt b).st = s.st := rfl
@[simp] theorem State.setDt_latch (b : Byte) : (s.setDt b).latch = s.latch := rfl
@[simp] theorem State.setDt_fb (b : Byte) : (s.setDt b).fb = s.fb := rfl
@[simp] theorem State.setDt_mem (b : Byte) : (s.setDt b).mem = s.mem := rfl
@[simp] theorem State.setDt_font (b : Byte) : (s.setDt b).font = s.font := rfl
@[simp] theorem State.setDt_out (b : Byte) : (s.setDt b).out = s.out := rfl
@[simp] theorem State.setDt_env (b : Byte) : (s.setDt b).env = s.env := rfl

@[simp] theorem State.setSt_v (b : Byte) : (s.setSt b).v = s.v := rfl
@[simp] theorem State.setSt_i (b : Byte) : (s.setSt b).i = s.i := rfl
@[simp] theorem State.setSt_pc (b : Byte) : (s.setSt b).pc = s.pc := rfl
@[simp] theorem State.setSt_stack (b : Byte) : (s.setSt b).stack = s.stack := rfl
@[simp] theorem State.setSt_sp (b : Byte) : (s.setSt b).sp = s.sp := rfl
@[simp] theorem State.setSt_dt (b : Byte) : (s.setSt b).dt = s.dt := rfl
@[simp] theorem State.setSt_st (b : Byte) : (s.setSt b).st = b := rfl
@[simp] theorem State.setSt_latch (b : Byte) : (s.setSt b).latch = s.latch := rfl
@[simp] theorem State.setSt_fb (b : Byte) : (s.setSt b).fb = s.fb := rfl
@[simp] theorem State.setSt_mem (b : Byte) : (s.setSt b).mem = s.mem := rfl
@[simp] theorem State.setSt_font (b : Byte) : (s.setSt b).font = s.font := rfl
@[simp] theorem State.setSt_out (b : Byte) : (s.setSt b).out = s.out := rfl
@[simp] theorem State.setSt_env (b : Byte) : (s.setSt b).env = s.env := rfl

@[simp] theorem State.setLatch_v (l : Option Reg) : (s.setLatch l).v = s.v := rfl
@[simp] theorem State.setLatch_i (l : Option Reg) : (s.setLatch l).i = s.i := rfl
@[simp] theorem State.setLatch_pc (l : Option Reg) : (s.setLatch l).pc = s.pc := rfl
@[simp] theorem State.setLatch_stack (l : Option Reg) : (s.setLatch l).stack = s.stack := rfl
@[simp] theorem State.setLatch_sp (l : Option Reg) : (s.setLatch l).sp = s.sp := rfl
@[simp] theorem State.setLatch_dt (l : Option Reg) : (s.setLatch l).dt = s.dt := rfl
@[simp] theorem State.setLatch_st (l : Option Reg) : (s.setLatch l).st = s.st := rfl
@[simp] theorem State.setLatch_latch (l : Option Reg) : (s.setLatch l).latch = l := rfl
@[simp] theorem State.setLatch_fb (l : Option Reg) : (s.setLatch l).fb = s.fb := rfl
@[simp] theorem State.setLatch_mem (l : Option Reg) : (s.setLatch l).mem = s.mem := rfl
@[simp] theorem State.setLatch_font (l : Option Reg) : (s.setLatch l).font = s.font := rfl
@[simp] theorem State.setLatch_out (l : Option Reg) : (s.setLatch l).out = s.out := rfl
@[simp] theorem State.setLatch_env (l : Option Reg) : (s.setLatch l).env = s.env := rfl

@[simp] theorem State.setFb_v (f : Framebuffer) : (s.setFb f).v = s.v := rfl
@[simp] theorem State.setFb_i (f : Framebuffer) : (s.setFb f).i = s.i := rfl
@[simp] theorem State.setFb_pc (f : Framebuffer) : (s.setFb f).pc = s.pc := rfl
@[simp] theorem State.setFb_stack (f : Framebuffer) : (s.setFb f).stack = s.stack := rfl
@[simp] theorem State.setFb_sp (f : Framebuffer) : (s.setFb f).sp = s.sp := rfl
@[simp] theorem State.setFb_dt (f : Framebuffer) : (s.setFb f).dt = s.dt := rfl
@[simp] theorem State.setFb_st (f : Framebuffer) : (s.setFb f).st = s.st := rfl
@[simp] theorem State.setFb_latch (f : Framebuffer) : (s.setFb f).latch = s.latch := rfl
@[simp] theorem State.setFb_fb (f : Framebuffer) : (s.setFb f).fb = f := rfl
@[simp] theorem State.setFb_mem (f : Framebuffer) : (s.setFb f).mem = s.mem := rfl
@[simp] theorem State.setFb_font (f : Framebuffer) : (s.setFb f).font = s.font := rfl
@[simp] theorem State.setFb_out (f : Framebuffer) : (s.setFb f).out = s.out := rfl
@[simp] theorem State.setFb_env (f : Framebuffer) : (s.setFb f).env = s.env := rfl

@[simp] theorem State.writeByte_v (a : Nat) (x : Byte) : (s.writeByte a x).v = s.v := rfl
@[simp] theorem State.writeByte_i (a : Nat) (x : Byte) : (s.writeByte a x).i = s.i := rfl
@[simp] theorem State.writeByte_pc (a : Nat) (x : Byte) : (s.writeByte a x).pc = s.pc := rfl
@[simp] theorem State.writeByte_stack (a : Nat) (x : Byte) : (s.writeByte a x).stack = s.stack := rfl
@[simp] theorem State.writeByte_sp (a : Nat) (x : Byte) : (s.writeByte a x).sp = s.sp := rfl
@[simp] theorem State.writeByte_dt (a : Nat) (x : Byte) : (s.writeByte a x).dt = s.dt := rfl
@[simp] theorem State.writeByte_st (a : Nat) (x : Byte) : (s.writeByte a x).st = s.st := rfl
@[simp] theorem State.writeByte_latch (a : Nat) (x : Byte) : (s.writeByte a x).latch = s.latch := rfl
@[simp] theorem State.writeByte_fb (a : Nat) (x : Byte) : (s.writeByte a x).fb = s.fb := rfl
@[simp] theorem State.writeByte_mem (a : Nat) (x : Byte) : (s.writeByte a x).mem = Memory.write s.font s.mem (maskAddress a) x := rfl
@[simp] theorem State.writeByte_font (a : Nat) (x : Byte) : (s.writeByte a x).font = s.font := rfl
@[simp] theorem State.writeByte_out (a : Nat) (x : Byte) : (s.writeByte a x).out = s.out := rfl
@[simp] theorem State.writeByte_env (a : Nat) (x : Byte) : (s.writeByte a x).env = s.env := rfl

@[simp] theorem State.setOut_v (o : Outputs) : (s.setOut o).v = s.v := rfl
@[simp] theorem State.setOut_i (o : Outputs) : (s.setOut o).i = s.i := rfl
@[simp] theorem State.setOut_pc (o : Outputs) : (s.setOut o).pc = s.pc := rfl
@[simp] theorem State.setOut_stack (o : Outputs) : (s.setOut o).stack = s.stack := rfl
@[simp] theorem State.setOut_sp (o : Outputs) : (s.setOut o).sp = s.sp := rfl
@[simp] theorem State.setOut_dt (o : Outputs) : (s.setOut o).dt = s.dt := rfl
@[simp] theorem State.setOut_st (o : Outputs) : (s.setOut o).st = s.st := rfl
@[simp] theorem State.setOut_latch (o : Outputs) : (s.setOut o).latch = s.latch := rfl
@[simp] theorem State.setOut_fb (o : Outputs) : (s.setOut o).fb = s.fb := rfl
@[simp] theorem State.setOut_mem (o : Outputs) : (s.setOut o).mem = s.mem := rfl
@[simp] theorem State.setOut_font (o : Outputs) : (s.setOut o).font = s.font := rfl
@[simp] theorem State.setOut_out (o : Outputs) : (s.setOut o).out = o := rfl
@[simp] theorem State.setOut_env (o : Outputs) : (s.setOut o).env = s.env := rfl

@[simp] theorem State.setEnv_v (e : Environment) : (s.setEnv e).v = s.v := rfl
@[simp] theorem State.setEnv_i (e : Environment) : (s.setEnv e).i = s.i := rfl
@[simp] theorem State.setEnv_pc (e : Environment) : (s.setEnv e).pc = s.pc := rfl
@[simp] theorem State.setEnv_stack (e : Environment) : (s.setEnv e).stack = s.stack := rfl
@[simp] theorem State.setEnv_sp (e : Environment) : (s.setEnv e).sp = s.sp := rfl
@[simp] theorem State.setEnv_dt (e : Environment) : (s.setEnv e).dt = s.dt := rfl
@[simp] theorem State.setEnv_st (e : Environment) : (s.setEnv e).st = s.st := rfl
@[simp] theorem State.setEnv_latch (e : Environment) : (s.setEnv e).latch = s.latch := rfl
@[simp] theorem State.setEnv_fb (e : Environment) : (s.setEnv e).fb = s.fb := rfl
@[simp] theorem State.setEnv_mem (e : Environment) : (s.setEnv e).mem = s.mem := rfl
@[simp] theorem State.setEnv_font (e : Environment) : (s.setEnv e).font = s.font := rfl
@[simp] theorem State.setEnv_out (e : Environment) : (s.setEnv e).out = s.out := rfl
@[simp] theorem State.setEnv_env (e : Environment) : (s.setEnv e).env = e := rfl

end Sys2Proof.Machine
end

