-- ==== Sys2Proof/Laws/Ops.lean ====
section
/-! SUPPORT. One lemma for each shared operation of Machine/Ops.lean and Machine/Flags.lean that says what it can do. -/

namespace Sys2Proof.Machine

/-! ## Addresses and memory -/

theorem maskAddress_lt (a : Nat) : maskAddress a < 4096 := Nat.mod_lt _ (by decide)

@[simp] theorem maskAddress_idem (a : Nat) : maskAddress (maskAddress a) = maskAddress a := Nat.mod_mod ..

/-- Two states with the same memory list and FONT read alike. -/
theorem State.readByte_congr {s t : State} (h : t.mem = s.mem) (hf : t.font = s.font) (a : Nat) :
    t.readByte a = s.readByte a := by
  rw [State.readByte, State.readByte, h, hf]

/-- Memory right after reset reads as its reset contents (10_state.md R36). -/
theorem State.readByte_resetWith (f : Font) (a : Nat) :
    (State.resetWith f).readByte a = Memory.unlisted f (maskAddress a) := rfl

/-- What a byte store does, as reads see it. -/
theorem State.readByte_writeByte {s : State} (h : Memory.wf s.font s.mem) (a b : Nat) (x : Byte) :
    (s.writeByte a x).readByte b = if maskAddress b = maskAddress a then x else s.readByte b :=
  Memory.read_write h ..

theorem State.writeByte_wf {s : State} (h : Memory.wf s.font s.mem) (a : Nat) (x : Byte) :
    Memory.wf s.font (s.writeByte a x).mem :=
  Memory.write_wf (maskAddress_lt a) h

/-- A byte store changes memory alone. -/
theorem State.writeByte_frame (s : State) (a : Nat) (x : Byte) :
    s.writeByte a x = { s with mem := (s.writeByte a x).mem } := rfl

/-- A load of a byte sequence changes memory alone. -/
theorem State.writeBytes_frame (data : List Byte) (s : State) (a : Nat) :
    s.writeBytes a data = { s with mem := (s.writeBytes a data).mem } := by
  induction data generalizing s a with
  | nil => rfl
  | cons b data ih => rw [State.writeBytes, ih]; rfl

@[simp] theorem State.writeBytes_font (data : List Byte) (s : State) (a : Nat) : (s.writeBytes a data).font = s.font := by
  rw [State.writeBytes_frame]

theorem State.writeBytes_wf (data : List Byte) {s : State} (h : Memory.wf s.font s.mem) (a : Nat) :
    Memory.wf s.font (s.writeBytes a data).mem := by
  induction data generalizing s a with
  | nil => exact h
  | cons b data ih => exact ih (s := s.writeByte a b) (State.writeByte_wf h a b) (a + 1)

/-- What a load of at most 4096 bytes does, as reads see it: the bytes of `data` at its addresses, all else as before. -/
theorem State.readByte_writeBytes (data : List Byte) {s : State} (h : Memory.wf s.font s.mem) {a b : Nat}
    (ha : a + data.length ≤ 4096) (hb : b < 4096) :
    (s.writeBytes a data).readByte b = if a ≤ b then (data[b - a]?).getD (s.readByte b) else s.readByte b := by
  induction data generalizing s a with
  | nil => simp [State.writeBytes]
  | cons x data ih =>
    have ha' : a + 1 + data.length ≤ 4096 := by simpa [Nat.add_assoc, Nat.add_comm 1] using ha
    have hlt : a < 4096 := by simp at ha; omega
    have hm : ∀ c, c < 4096 → maskAddress c = c := fun c hc => Nat.mod_eq_of_lt hc
    rw [State.writeBytes, ih (s := s.writeByte a x) (State.writeByte_wf h a x) ha']
    rcases lt_trichotomy b a with hba | rfl | hba
    · rw [if_neg (by omega), if_neg (by omega), State.readByte_writeByte h, hm b hb, hm a hlt, if_neg hba.ne]
    · rw [if_neg (by omega), if_pos le_rfl, State.readByte_writeByte h]; simp
    · obtain ⟨k, rfl⟩ : ∃ k, b = a + 1 + k := ⟨b - (a + 1), by omega⟩
      rw [if_pos (by omega), if_pos (by omega), State.readByte_writeByte h, hm _ hb, hm a hlt, if_neg (by omega)]
      have h1 : a + 1 + k - (a + 1) = k := by omega
      have h2 : a + 1 + k - a = k + 1 := by omega
      rw [h1, h2, List.getElem?_cons_succ]

/-! ## Registers -/

/-- What a register write does, as register reads see it. -/
theorem State.getV_setV (s : State) (x y : Reg) (b : Byte) : (s.setV x b).getV y = if y = x then b else s.getV y := by
  simp only [State.getV, State.setV, Vector.getElem_set, BitVec.toNat_inj]
  simp only [@eq_comm _ x y]

@[simp] theorem State.getV_setV_same (s : State) (x : Reg) (b : Byte) : (s.setV x b).getV x = b := by
  simp [State.getV_setV]

/-- Registers read alike in states with the same register file. -/
theorem State.getV_congr {s t : State} (h : t.v = s.v) (x : Reg) : t.getV x = s.getV x := by
  simp only [State.getV, h]

/-- Two states of one register file read alike, and conversely. -/
theorem State.v_ext {s t : State} (h : ∀ x, t.getV x = s.getV x) : t.v = s.v := by
  refine Vector.ext fun j hj => ?_
  simpa [State.getV, Nat.mod_eq_of_lt hj] using h (BitVec.ofNat 4 j)

theorem State.setV_frame (s : State) (x : Reg) (b : Byte) : s.setV x b = { s with v := (s.setV x b).v } := rfl

/-! ## The program counter -/

/-- The mask leaves an address below 4096 (10_state.md R24). -/
theorem toNat_mask12 (a : Word) : (a &&& 0x0FFF#16).toNat = a.toNat % 4096 := by
  rw [BitVec.toNat_and]; exact Nat.and_two_pow_sub_one_eq_mod a.toNat 12

theorem State.toNat_setPc (s : State) (a : Word) : (s.setPc a).pc.toNat = a.toNat % 4096 := toNat_mask12 a

theorem State.setPc_lt (s : State) (a : Word) : (s.setPc a).pc.toNat < 4096 := by
  rw [State.toNat_setPc]; exact Nat.mod_lt _ (by decide)

theorem State.setPc_frame (s : State) (a : Word) : s.setPc a = { s with pc := (s.setPc a).pc } := rfl

theorem State.advance_frame (s : State) : s.advance = { s with pc := s.advance.pc } := rfl

/-- A conditional skip changes PC alone: two further bytes when the condition holds. -/
theorem State.skipIf_eq (s : State) (c : Bool) :
    s.skipIf c = { s with pc := if c then (s.pc + 2) &&& 0x0FFF#16 else s.pc } := by
  cases c <;> rfl

/-! ## The call stack -/

/-- A push with room: the entry at SP, then SP + 1. -/
theorem State.push_of_lt {s : State} (h : s.sp.val < 16) (a : Word) :
    s.push a = { s with stack := s.stack.set s.sp.val a h, sp := ⟨s.sp.val + 1, Nat.succ_lt_succ h⟩ } := by
  simp [State.push, h]

/-- A push on a full stack does nothing. -/
theorem State.push_of_full {s : State} (h : ¬s.sp.val < 16) (a : Word) : s.push a = s := by simp [State.push, h]

/-- A pop of an empty stack does nothing. -/
theorem State.popPc_of_zero {s : State} (h : s.sp.val = 0) : s.popPc = s := by simp [State.popPc, h]

/-- A pop: SP - 1, then PC from the entry there, masked. -/
theorem State.popPc_of_pos {s : State} (h : s.sp.val ≠ 0) :
    s.popPc = { s with sp := ⟨s.sp.val - 1, by omega⟩
                       pc := (s.stack[s.sp.val - 1]'(by omega)) &&& 0x0FFF#16 } := by
  simp [State.popPc, h, State.setPc]

/-! ## Block copies -/

/-- A block store changes memory alone. -/
theorem State.storeRegs_frame (s : State) (k : Nat) : s.storeRegs k = { s with mem := (s.storeRegs k).mem } := by
  induction k with
  | zero => rfl
  | succ k ih => rw [State.storeRegs, ih]; rfl

@[simp] theorem State.storeRegs_font (s : State) (k : Nat) : (s.storeRegs k).font = s.font := by
  rw [State.storeRegs_frame]

theorem State.storeRegs_wf {s : State} (h : Memory.wf s.font s.mem) (k : Nat) :
    Memory.wf s.font (s.storeRegs k).mem := by
  induction k with
  | zero => exact h
  | succ k ih =>
    rw [State.storeRegs, State.writeByte_mem, State.storeRegs_font]
    exact Memory.write_wf (maskAddress_lt _) ih

/-- Distinct offsets of one block copy reach distinct addresses. -/
theorem State.effectiveAddress_inj {s : State} {j k : Nat} (hj : j < 4096) (hk : k < 4096)
    (h : s.effectiveAddress j = s.effectiveAddress k) : j = k := by
  simp only [State.effectiveAddress, maskAddress] at h; omega

/-- What a block store does, as reads see it. -/
theorem State.readByte_storeRegs {s : State} (h : Memory.wf s.font s.mem) {k : Nat} (hk : k ≤ 16) :
    (∀ j < k, (s.storeRegs k).readByte (s.effectiveAddress j) = s.getV (BitVec.ofNat 4 j)) ∧
    ∀ a, (∀ j < k, maskAddress a ≠ s.effectiveAddress j) → (s.storeRegs k).readByte a = s.readByte a := by
  induction k with
  | zero => exact ⟨fun j hj => absurd hj (Nat.not_lt_zero j), fun _ _ => rfl⟩
  | succ k ih =>
    obtain ⟨same, other⟩ := ih (by omega)
    have mask : ∀ j, maskAddress (s.effectiveAddress j) = s.effectiveAddress j := fun j => maskAddress_idem _
    refine ⟨fun j hj => ?_, fun a ha => ?_⟩ <;>
      rw [State.storeRegs, State.readByte_writeByte (s := s.storeRegs k) (by simpa using State.storeRegs_wf h k), mask]
    · rw [mask]
      rcases Nat.lt_succ_iff_lt_or_eq.mp hj with hj | rfl
      · rw [if_neg fun e => absurd (State.effectiveAddress_inj (by omega) (by omega) e) (by omega), same j hj]
      · rw [if_pos rfl]
    · rw [if_neg (ha k (Nat.lt_succ_self k)), other a fun j hj => ha j (hj.trans (Nat.lt_succ_self k))]

/-- A block load changes registers alone. -/
theorem State.loadRegs_frame (s : State) (k : Nat) : s.loadRegs k = { s with v := (s.loadRegs k).v } := by
  induction k with
  | zero => rfl
  | succ k ih => rw [State.loadRegs, ih]; rfl

/-- What a block load does, as register reads see it. -/
theorem State.getV_loadRegs (s : State) {k : Nat} (hk : k ≤ 16) (r : Reg) :
    (s.loadRegs k).getV r = if r.toNat < k then s.readByte (s.effectiveAddress r.toNat) else s.getV r := by
  induction k with
  | zero => rfl
  | succ k ih =>
    rw [State.loadRegs, State.getV_setV, ih (by omega)]
    have hr : r = BitVec.ofNat 4 k ↔ r.toNat = k := by
      rw [← BitVec.toNat_inj, BitVec.toNat_ofNat, Nat.mod_eq_of_lt (by omega)]
    by_cases h : r.toNat = k
    · rw [if_pos (hr.mpr h), if_pos (by omega), h]
    · rw [if_neg (mt hr.mp h)]
      by_cases h' : r.toNat < k
      · rw [if_pos h', if_pos (by omega)]
      · rw [if_neg h', if_neg (by omega)]

/-! ## Flags -/

/-- The carry flag is 1 exactly when the exact sum does not fit 8 bits (41_register_alu.md R137). -/
theorem carryFlag_eq (a b : Byte) : carryFlag a b = if 256 ≤ a.toNat + b.toNat then 1 else 0 := by
  have ha := a.isLt; have hb := b.isLt
  simp only [carryFlag, flagByte, decide_eq_true_eq, GT.gt, BitVec.lt_def, BitVec.toNat_add]
  congr 1
  simp only [eq_iff_iff]; omega

/-- The no-borrow flag is the strict comparison. -/
theorem noBorrowFlag_eq (a b : Byte) : noBorrowFlag a b = if b.toNat < a.toNat then 1 else 0 := by
  simp [noBorrowFlag, flagByte, BitVec.lt_def]

/-- Result, then flag: VF ends as the flag whatever x is. -/
theorem State.getV_resultThenFlag (s : State) (x r : Reg) (result flag : Byte) :
    (s.resultThenFlag x result flag).getV r = if r = regF then flag else if r = x then result else s.getV r := by
  simp only [State.resultThenFlag, State.getV_setV]

/-- Flag, then result: Vx ends as the result, VF too when x = 0xF. -/
theorem State.getV_flagThenResult (s : State) (x r : Reg) (result flag : Byte) :
    (s.flagThenResult x result flag).getV r = if r = x then result else if r = regF then flag else s.getV r := by
  simp only [State.flagThenResult, State.getV_setV]

end Sys2Proof.Machine
end

