-- ==== Sys2Proof/Laws/PerInstr.lean ====
section
/-! SUPPORT. Two facts of every instruction as syntax, one lemma per constructor: its operands are well formed
(30_encoding.md R72, R78), and its encoding belongs to its own row of the table (R74). -/

namespace Sys2Proof.Laws

/-! ## Well-formed operands -/

/-- The instruction carries the fields of its format, each in range. -/
def WellFormedOperands.Statement (i : Instr) : Prop := i.WellFormed

theorem WellFormedOperands.cls : WellFormedOperands.Statement .cls := rfl
theorem WellFormedOperands.ret : WellFormedOperands.Statement .ret := rfl
theorem WellFormedOperands.jp (nnn : Address) : WellFormedOperands.Statement (.jp nnn) := by
  simp [WellFormedOperands.Statement, Instr.WellFormed, OperandFields.wf, Instr.operands, Instr.format, fieldOk, nnn.isLt]
theorem WellFormedOperands.call (nnn : Address) : WellFormedOperands.Statement (.call nnn) := by
  simp [WellFormedOperands.Statement, Instr.WellFormed, OperandFields.wf, Instr.operands, Instr.format, fieldOk, nnn.isLt]
theorem WellFormedOperands.seVxKK (x : Reg) (kk : Byte) : WellFormedOperands.Statement (.seVxKK x kk) := by
  simp [WellFormedOperands.Statement, Instr.WellFormed, OperandFields.wf, Instr.operands, Instr.format, fieldOk, x.isLt, kk.isLt]
theorem WellFormedOperands.sneVxKK (x : Reg) (kk : Byte) : WellFormedOperands.Statement (.sneVxKK x kk) := by
  simp [WellFormedOperands.Statement, Instr.WellFormed, OperandFields.wf, Instr.operands, Instr.format, fieldOk, x.isLt, kk.isLt]
theorem WellFormedOperands.seVxVy (x y : Reg) : WellFormedOperands.Statement (.seVxVy x y) := by
  simp [WellFormedOperands.Statement, Instr.WellFormed, OperandFields.wf, Instr.operands, Instr.format, fieldOk, x.isLt, y.isLt]
theorem WellFormedOperands.ldVxKK (x : Reg) (kk : Byte) : WellFormedOperands.Statement (.ldVxKK x kk) := by
  simp [WellFormedOperands.Statement, Instr.WellFormed, OperandFields.wf, Instr.operands, Instr.format, fieldOk, x.isLt, kk.isLt]
theorem WellFormedOperands.addVxKK (x : Reg) (kk : Byte) : WellFormedOperands.Statement (.addVxKK x kk) := by
  simp [WellFormedOperands.Statement, Instr.WellFormed, OperandFields.wf, Instr.operands, Instr.format, fieldOk, x.isLt, kk.isLt]
theorem WellFormedOperands.ldVxVy (x y : Reg) : WellFormedOperands.Statement (.ldVxVy x y) := by
  simp [WellFormedOperands.Statement, Instr.WellFormed, OperandFields.wf, Instr.operands, Instr.format, fieldOk, x.isLt, y.isLt]
theorem WellFormedOperands.or (x y : Reg) : WellFormedOperands.Statement (.or x y) := by
  simp [WellFormedOperands.Statement, Instr.WellFormed, OperandFields.wf, Instr.operands, Instr.format, fieldOk, x.isLt, y.isLt]
theorem WellFormedOperands.and (x y : Reg) : WellFormedOperands.Statement (.and x y) := by
  simp [WellFormedOperands.Statement, Instr.WellFormed, OperandFields.wf, Instr.operands, Instr.format, fieldOk, x.isLt, y.isLt]
theorem WellFormedOperands.xor (x y : Reg) : WellFormedOperands.Statement (.xor x y) := by
  simp [WellFormedOperands.Statement, Instr.WellFormed, OperandFields.wf, Instr.operands, Instr.format, fieldOk, x.isLt, y.isLt]
theorem WellFormedOperands.addVxVy (x y : Reg) : WellFormedOperands.Statement (.addVxVy x y) := by
  simp [WellFormedOperands.Statement, Instr.WellFormed, OperandFields.wf, Instr.operands, Instr.format, fieldOk, x.isLt, y.isLt]
theorem WellFormedOperands.sub (x y : Reg) : WellFormedOperands.Statement (.sub x y) := by
  simp [WellFormedOperands.Statement, Instr.WellFormed, OperandFields.wf, Instr.operands, Instr.format, fieldOk, x.isLt, y.isLt]
theorem WellFormedOperands.shr (x y : Reg) : WellFormedOperands.Statement (.shr x y) := by
  simp [WellFormedOperands.Statement, Instr.WellFormed, OperandFields.wf, Instr.operands, Instr.format, fieldOk, x.isLt, y.isLt]
theorem WellFormedOperands.subn (x y : Reg) : WellFormedOperands.Statement (.subn x y) := by
  simp [WellFormedOperands.Statement, Instr.WellFormed, OperandFields.wf, Instr.operands, Instr.format, fieldOk, x.isLt, y.isLt]
theorem WellFormedOperands.shl (x y : Reg) : WellFormedOperands.Statement (.shl x y) := by
  simp [WellFormedOperands.Statement, Instr.WellFormed, OperandFields.wf, Instr.operands, Instr.format, fieldOk, x.isLt, y.isLt]
theorem WellFormedOperands.sneVxVy (x y : Reg) : WellFormedOperands.Statement (.sneVxVy x y) := by
  simp [WellFormedOperands.Statement, Instr.WellFormed, OperandFields.wf, Instr.operands, Instr.format, fieldOk, x.isLt, y.isLt]
theorem WellFormedOperands.ldI (nnn : Address) : WellFormedOperands.Statement (.ldI nnn) := by
  simp [WellFormedOperands.Statement, Instr.WellFormed, OperandFields.wf, Instr.operands, Instr.format, fieldOk, nnn.isLt]
theorem WellFormedOperands.jpV0 (nnn : Address) : WellFormedOperands.Statement (.jpV0 nnn) := by
  simp [WellFormedOperands.Statement, Instr.WellFormed, OperandFields.wf, Instr.operands, Instr.format, fieldOk, nnn.isLt]
theorem WellFormedOperands.rnd (x : Reg) (kk : Byte) : WellFormedOperands.Statement (.rnd x kk) := by
  simp [WellFormedOperands.Statement, Instr.WellFormed, OperandFields.wf, Instr.operands, Instr.format, fieldOk, x.isLt, kk.isLt]
theorem WellFormedOperands.drw (x y : Reg) (n : Nibble) : WellFormedOperands.Statement (.drw x y n) := by
  simp [WellFormedOperands.Statement, Instr.WellFormed, OperandFields.wf, Instr.operands, Instr.format, fieldOk, x.isLt, y.isLt, n.isLt]
theorem WellFormedOperands.skp (x : Reg) : WellFormedOperands.Statement (.skp x) := by
  simp [WellFormedOperands.Statement, Instr.WellFormed, OperandFields.wf, Instr.operands, Instr.format, fieldOk, x.isLt]
theorem WellFormedOperands.sknp (x : Reg) : WellFormedOperands.Statement (.sknp x) := by
  simp [WellFormedOperands.Statement, Instr.WellFormed, OperandFields.wf, Instr.operands, Instr.format, fieldOk, x.isLt]
theorem WellFormedOperands.ldVxDT (x : Reg) : WellFormedOperands.Statement (.ldVxDT x) := by
  simp [WellFormedOperands.Statement, Instr.WellFormed, OperandFields.wf, Instr.operands, Instr.format, fieldOk, x.isLt]
theorem WellFormedOperands.ldVxK (x : Reg) : WellFormedOperands.Statement (.ldVxK x) := by
  simp [WellFormedOperands.Statement, Instr.WellFormed, OperandFields.wf, Instr.operands, Instr.format, fieldOk, x.isLt]
theorem WellFormedOperands.ldDTVx (x : Reg) : WellFormedOperands.Statement (.ldDTVx x) := by
  simp [WellFormedOperands.Statement, Instr.WellFormed, OperandFields.wf, Instr.operands, Instr.format, fieldOk, x.isLt]
theorem WellFormedOperands.ldSTVx (x : Reg) : WellFormedOperands.Statement (.ldSTVx x) := by
  simp [WellFormedOperands.Statement, Instr.WellFormed, OperandFields.wf, Instr.operands, Instr.format, fieldOk, x.isLt]
theorem WellFormedOperands.addIVx (x : Reg) : WellFormedOperands.Statement (.addIVx x) := by
  simp [WellFormedOperands.Statement, Instr.WellFormed, OperandFields.wf, Instr.operands, Instr.format, fieldOk, x.isLt]
theorem WellFormedOperands.ldFVx (x : Reg) : WellFormedOperands.Statement (.ldFVx x) := by
  simp [WellFormedOperands.Statement, Instr.WellFormed, OperandFields.wf, Instr.operands, Instr.format, fieldOk, x.isLt]
theorem WellFormedOperands.ldBVx (x : Reg) : WellFormedOperands.Statement (.ldBVx x) := by
  simp [WellFormedOperands.Statement, Instr.WellFormed, OperandFields.wf, Instr.operands, Instr.format, fieldOk, x.isLt]
theorem WellFormedOperands.ldMemVx (x : Reg) : WellFormedOperands.Statement (.ldMemVx x) := by
  simp [WellFormedOperands.Statement, Instr.WellFormed, OperandFields.wf, Instr.operands, Instr.format, fieldOk, x.isLt]
theorem WellFormedOperands.ldVxMem (x : Reg) : WellFormedOperands.Statement (.ldVxMem x) := by
  simp [WellFormedOperands.Statement, Instr.WellFormed, OperandFields.wf, Instr.operands, Instr.format, fieldOk, x.isLt]

/-! ## The encoding's row -/

theorem nibble_and_ones (f : Nibble) : f &&& 0xF#4 = f := BitVec.and_allOnes

theorem byte_and_ones (k : Byte) : k &&& 0xFF#8 = k := BitVec.and_allOnes

theorem encodeNNN_and_mask (f : Nibble) (a : Address) : encodeNNN f a &&& 0xF000 = encodeNNN f 0 := by
  have : (0xF000 : Word) = 0xF#4 ++ 0x000#12 := by decide
  rw [this, encodeNNN, BitVec.and_append, nibble_and_ones, BitVec.and_zero]; rfl

theorem encodeXKK_and_mask (f : Nibble) (x : Reg) (k : Byte) : encodeXKK f x k &&& 0xF000 = encodeXKK f 0 0 := by
  have : (0xF000 : Word) = 0xF#4 ++ 0x0#4 ++ 0x00#8 := by decide
  rw [this, encodeXKK, BitVec.and_append, BitVec.and_append, nibble_and_ones, BitVec.and_zero, BitVec.and_zero]; rfl

theorem encodeXKK_and_maskX (f : Nibble) (x : Reg) (k : Byte) : encodeXKK f x k &&& 0xF0FF = encodeXKK f 0 k := by
  have : (0xF0FF : Word) = 0xF#4 ++ 0x0#4 ++ 0xFF#8 := by decide
  rw [this, encodeXKK, BitVec.and_append, BitVec.and_append, nibble_and_ones, BitVec.and_zero, byte_and_ones]; rfl

theorem encodeXYN_and_mask (f : Nibble) (x y : Reg) (n : Nibble) : encodeXYN f x y n &&& 0xF000 = encodeXYN f 0 0 0 := by
  have : (0xF000 : Word) = 0xF#4 ++ 0x0#4 ++ 0x0#4 ++ 0x0#4 := by decide
  rw [this, encodeXYN, BitVec.and_append, BitVec.and_append, BitVec.and_append, nibble_and_ones, BitVec.and_zero,
    BitVec.and_zero, BitVec.and_zero]; rfl

theorem encodeXYN_and_maskN (f : Nibble) (x y : Reg) (n : Nibble) : encodeXYN f x y n &&& 0xF00F = encodeXYN f 0 0 n := by
  have : (0xF00F : Word) = 0xF#4 ++ 0x0#4 ++ 0x0#4 ++ 0xF#4 := by decide
  rw [this, encodeXYN, BitVec.and_append, BitVec.and_append, BitVec.and_append, nibble_and_ones, BitVec.and_zero,
    BitVec.and_zero, nibble_and_ones]; rfl

/-- The table has a row of the instruction's mnemonic, and the instruction's encoding matches it. -/
def RowOfTable.Statement (i : Instr) : Prop := ∃ r ∈ opcodeTable, r.mnemonic = i.mnemonic ∧ r.Matches (encode i)

theorem RowOfTable.cls : RowOfTable.Statement .cls := ⟨⟨"CLS", 0xFFFF, 0x00E0⟩, by decide, rfl, by decide⟩
theorem RowOfTable.ret : RowOfTable.Statement .ret := ⟨⟨"RET", 0xFFFF, 0x00EE⟩, by decide, rfl, by decide⟩
theorem RowOfTable.jp (nnn : Address) : RowOfTable.Statement (.jp nnn) := 
  ⟨⟨"JP", 0xF000, 0x1000⟩, by decide, rfl, encodeNNN_and_mask ..⟩
theorem RowOfTable.call (nnn : Address) : RowOfTable.Statement (.call nnn) := 
  ⟨⟨"CALL", 0xF000, 0x2000⟩, by decide, rfl, encodeNNN_and_mask ..⟩
theorem RowOfTable.seVxKK (x : Reg) (kk : Byte) : RowOfTable.Statement (.seVxKK x kk) := 
  ⟨⟨"SE_VxKK", 0xF000, 0x3000⟩, by decide, rfl, encodeXKK_and_mask ..⟩
theorem RowOfTable.sneVxKK (x : Reg) (kk : Byte) : RowOfTable.Statement (.sneVxKK x kk) := 
  ⟨⟨"SNE_VxKK", 0xF000, 0x4000⟩, by decide, rfl, encodeXKK_and_mask ..⟩
theorem RowOfTable.seVxVy (x y : Reg) : RowOfTable.Statement (.seVxVy x y) := 
  ⟨⟨"SE_VxVy", 0xF00F, 0x5000⟩, by decide, rfl, encodeXYN_and_maskN ..⟩
theorem RowOfTable.ldVxKK (x : Reg) (kk : Byte) : RowOfTable.Statement (.ldVxKK x kk) := 
  ⟨⟨"LD_VxKK", 0xF000, 0x6000⟩, by decide, rfl, encodeXKK_and_mask ..⟩
theorem RowOfTable.addVxKK (x : Reg) (kk : Byte) : RowOfTable.Statement (.addVxKK x kk) := 
  ⟨⟨"ADD_VxKK", 0xF000, 0x7000⟩, by decide, rfl, encodeXKK_and_mask ..⟩
theorem RowOfTable.ldVxVy (x y : Reg) : RowOfTable.Statement (.ldVxVy x y) := 
  ⟨⟨"LD_VxVy", 0xF00F, 0x8000⟩, by decide, rfl, encodeXYN_and_maskN ..⟩
theorem RowOfTable.or (x y : Reg) : RowOfTable.Statement (.or x y) := 
  ⟨⟨"OR", 0xF00F, 0x8001⟩, by decide, rfl, encodeXYN_and_maskN ..⟩
theorem RowOfTable.and (x y : Reg) : RowOfTable.Statement (.and x y) := 
  ⟨⟨"AND", 0xF00F, 0x8002⟩, by decide, rfl, encodeXYN_and_maskN ..⟩
theorem RowOfTable.xor (x y : Reg) : RowOfTable.Statement (.xor x y) := 
  ⟨⟨"XOR", 0xF00F, 0x8003⟩, by decide, rfl, encodeXYN_and_maskN ..⟩
theorem RowOfTable.addVxVy (x y : Reg) : RowOfTable.Statement (.addVxVy x y) := 
  ⟨⟨"ADD_VxVy", 0xF00F, 0x8004⟩, by decide, rfl, encodeXYN_and_maskN ..⟩
theorem RowOfTable.sub (x y : Reg) : RowOfTable.Statement (.sub x y) := 
  ⟨⟨"SUB", 0xF00F, 0x8005⟩, by decide, rfl, encodeXYN_and_maskN ..⟩
theorem RowOfTable.shr (x y : Reg) : RowOfTable.Statement (.shr x y) := 
  ⟨⟨"SHR", 0xF00F, 0x8006⟩, by decide, rfl, encodeXYN_and_maskN ..⟩
theorem RowOfTable.subn (x y : Reg) : RowOfTable.Statement (.subn x y) := 
  ⟨⟨"SUBN", 0xF00F, 0x8007⟩, by decide, rfl, encodeXYN_and_maskN ..⟩
theorem RowOfTable.shl (x y : Reg) : RowOfTable.Statement (.shl x y) := 
  ⟨⟨"SHL", 0xF00F, 0x800E⟩, by decide, rfl, encodeXYN_and_maskN ..⟩
theorem RowOfTable.sneVxVy (x y : Reg) : RowOfTable.Statement (.sneVxVy x y) := 
  ⟨⟨"SNE_VxVy", 0xF00F, 0x9000⟩, by decide, rfl, encodeXYN_and_maskN ..⟩
theorem RowOfTable.ldI (nnn : Address) : RowOfTable.Statement (.ldI nnn) := 
  ⟨⟨"LD_I", 0xF000, 0xA000⟩, by decide, rfl, encodeNNN_and_mask ..⟩
theorem RowOfTable.jpV0 (nnn : Address) : RowOfTable.Statement (.jpV0 nnn) := 
  ⟨⟨"JP_V0", 0xF000, 0xB000⟩, by decide, rfl, encodeNNN_and_mask ..⟩
theorem RowOfTable.rnd (x : Reg) (kk : Byte) : RowOfTable.Statement (.rnd x kk) := 
  ⟨⟨"RND", 0xF000, 0xC000⟩, by decide, rfl, encodeXKK_and_mask ..⟩
theorem RowOfTable.drw (x y : Reg) (n : Nibble) : RowOfTable.Statement (.drw x y n) := 
  ⟨⟨"DRW", 0xF000, 0xD000⟩, by decide, rfl, encodeXYN_and_mask ..⟩
theorem RowOfTable.skp (x : Reg) : RowOfTable.Statement (.skp x) := 
  ⟨⟨"SKP", 0xF0FF, 0xE09E⟩, by decide, rfl, encodeXKK_and_maskX ..⟩
theorem RowOfTable.sknp (x : Reg) : RowOfTable.Statement (.sknp x) := 
  ⟨⟨"SKNP", 0xF0FF, 0xE0A1⟩, by decide, rfl, encodeXKK_and_maskX ..⟩
theorem RowOfTable.ldVxDT (x : Reg) : RowOfTable.Statement (.ldVxDT x) := 
  ⟨⟨"LD_Vx_DT", 0xF0FF, 0xF007⟩, by decide, rfl, encodeXKK_and_maskX ..⟩
theorem RowOfTable.ldVxK (x : Reg) : RowOfTable.Statement (.ldVxK x) := 
  ⟨⟨"LD_Vx_K", 0xF0FF, 0xF00A⟩, by decide, rfl, encodeXKK_and_maskX ..⟩
theorem RowOfTable.ldDTVx (x : Reg) : RowOfTable.Statement (.ldDTVx x) := 
  ⟨⟨"LD_DT_Vx", 0xF0FF, 0xF015⟩, by decide, rfl, encodeXKK_and_maskX ..⟩
theorem RowOfTable.ldSTVx (x : Reg) : RowOfTable.Statement (.ldSTVx x) := 
  ⟨⟨"LD_ST_Vx", 0xF0FF, 0xF018⟩, by decide, rfl, encodeXKK_and_maskX ..⟩
theorem RowOfTable.addIVx (x : Reg) : RowOfTable.Statement (.addIVx x) := 
  ⟨⟨"ADD_I_Vx", 0xF0FF, 0xF01E⟩, by decide, rfl, encodeXKK_and_maskX ..⟩
theorem RowOfTable.ldFVx (x : Reg) : RowOfTable.Statement (.ldFVx x) := 
  ⟨⟨"LD_F_Vx", 0xF0FF, 0xF029⟩, by decide, rfl, encodeXKK_and_maskX ..⟩
theorem RowOfTable.ldBVx (x : Reg) : RowOfTable.Statement (.ldBVx x) := 
  ⟨⟨"LD_B_Vx", 0xF0FF, 0xF033⟩, by decide, rfl, encodeXKK_and_maskX ..⟩
theorem RowOfTable.ldMemVx (x : Reg) : RowOfTable.Statement (.ldMemVx x) := 
  ⟨⟨"LD_MEM_Vx", 0xF0FF, 0xF055⟩, by decide, rfl, encodeXKK_and_maskX ..⟩
theorem RowOfTable.ldVxMem (x : Reg) : RowOfTable.Statement (.ldVxMem x) := 
  ⟨⟨"LD_Vx_MEM", 0xF0FF, 0xF065⟩, by decide, rfl, encodeXKK_and_maskX ..⟩

end Sys2Proof.Laws
end

