-- ==== Sys2Proof/Laws/Step.lean ====
section
/-! SUPPORT. What one transaction can do, case by case (10_state.md R37, 40_control_flow.md R100 to R102). -/

namespace Sys2Proof.Machine

@[simp] theorem State.sample_given (s : State) (p : Inputs) (i : Instr) :
    s.sample (some p) i = s.setEnv { s.env with inputs := p } := rfl

/-- The sampled inputs change the environment's fields alone. -/
theorem State.sample_frame (s : State) (g : Option Inputs) (i : Instr) :
    s.sample g i = s.setEnv (s.sample g i).env := by
  cases g
  · simp only [State.sample]; split <;> rfl
  · rfl

/-- A STEP while the latch is set. -/
theorem State.stepCommand_waiting {s : State} {x : Reg} (h : s.latch = some x) (g : Option Inputs) :
    s.stepCommand g = .next s.waitingStep := by simp [State.stepCommand, h]

/-- A STEP in RUN of a word that decodes. -/
theorem State.stepCommand_instr {s : State} {i : Instr} (h : s.latch = none) (hd : decode s.fetch = .instr i)
    (g : Option Inputs) : s.stepCommand g = exec i ((s.sample g i).beginStep s.fetch) := by
  simp [State.stepCommand, h, hd]

/-- A STEP in RUN of an UNKNOWN word. -/
theorem State.stepCommand_unknown {s : State} {w : Word} (h : s.latch = none) (hd : decode s.fetch = .unknown w)
    (g : Option Inputs) : s.stepCommand g = .next (s.decodeMissStep w) := by
  simp [State.stepCommand, h, hd]

/-- Fetching looks at PC, memory and FONT only. -/
theorem State.fetch_congr {s t : State} (hp : t.pc = s.pc) (hm : t.mem = s.mem) (hf : t.font = s.font) :
    t.fetch = s.fetch := by
  simp only [State.fetch, State.readByte, hp, hm, hf]

/-- Everything one step can be: one of the five commands, and STEP in its three forms. -/
theorem step_cases (s : State) :
    (s.env.nextCommand = .reset ∧ step s = .next (s.setEnv s.env.issued).resetCommand) ∨
    (∃ data, s.env.nextCommand = .load data ∧ step s = .next ((s.setEnv s.env.issued).loadCommand data)) ∨
    (s.env.nextCommand = .tick ∧ step s = .next (s.setEnv s.env.issued).tickCommand) ∨
    (∃ k, s.env.nextCommand = .key k ∧ step s = .next ((s.setEnv s.env.issued).keyCommand k)) ∨
    (∃ g x, s.env.nextCommand = .step g ∧ s.latch = some x ∧ step s = .next (s.setEnv s.env.issued).waitingStep) ∨
    (∃ g w, s.env.nextCommand = .step g ∧ s.latch = none ∧ decode s.fetch = .unknown w ∧
      step s = .next ((s.setEnv s.env.issued).decodeMissStep w)) ∨
    (∃ g i, s.env.nextCommand = .step g ∧ s.latch = none ∧ decode s.fetch = .instr i ∧
      step s = exec i (((s.setEnv s.env.issued).sample g i).beginStep s.fetch)) := by
  have hstep : step s = (s.setEnv s.env.issued).command s.env.nextCommand := rfl
  rw [hstep]
  cases hc : s.env.nextCommand with
  | reset => exact .inl ⟨rfl, rfl⟩
  | load data => exact .inr (.inl ⟨data, rfl, rfl⟩)
  | tick => exact .inr (.inr (.inl ⟨rfl, rfl⟩))
  | key k => exact .inr (.inr (.inr (.inl ⟨k, rfl, rfl⟩)))
  | step g =>
    refine .inr (.inr (.inr (.inr ?_)))
    have hf : (s.setEnv s.env.issued).fetch = s.fetch := rfl
    cases hl : s.latch with
    | some x => exact .inl ⟨g, x, rfl, rfl, State.stepCommand_waiting (s := s.setEnv s.env.issued) hl g⟩
    | none =>
      refine .inr ?_
      cases hd : decode s.fetch with
      | unknown w =>
        exact .inl ⟨g, w, rfl, rfl, rfl, State.stepCommand_unknown (s := s.setEnv s.env.issued) hl (hf ▸ hd) g⟩
      | instr i => exact .inr ⟨g, i, rfl, rfl, rfl, State.stepCommand_instr (s := s.setEnv s.env.issued) hl (hf ▸ hd) g⟩

end Sys2Proof.Machine
end

