-- ==== Sys2Proof/Machine/Assembly.lean ====
section
/-! DEFINITION. The assembly text of 30_encoding.md R79 (92 D26): the block has no assembler, and no behaviour depends on
this file. -/

namespace Sys2Proof.Machine

/-- One hexadecimal digit. -/
def hexDigit (n : Nibble) : String :=
  ["0", "1", "2", "3", "4", "5", "6", "7", "8", "9", "A", "B", "C", "D", "E", "F"].getD n.toNat ""

/-- A register operand, V0 to VF. -/
def regText (x : Reg) : String := "V" ++ hexDigit x

/-- Immediates, "in hexadecimal with 0x". -/
def nibbleText (n : Nibble) : String := "0x" ++ hexDigit n
def byteText (b : Byte) : String := "0x" ++ hexDigit (b.extractLsb' 4 4) ++ hexDigit (b.extractLsb' 0 4)
def addressText (a : Address) : String := "0x" ++ hexDigit (a.extractLsb' 8 4) ++ hexDigit (a.extractLsb' 4 4) ++ hexDigit (a.extractLsb' 0 4)

/-- The syntax column of R79. -/
def instrText : Instr → String
  | .cls => "CLS"
  | .ret => "RET"
  | .jp a => "JP " ++ addressText a
  | .call a => "CALL " ++ addressText a
  | .seVxKK x k => "SE " ++ regText x ++ ", " ++ byteText k
  | .sneVxKK x k => "SNE " ++ regText x ++ ", " ++ byteText k
  | .seVxVy x y => "SE " ++ regText x ++ ", " ++ regText y
  | .ldVxKK x k => "LD " ++ regText x ++ ", " ++ byteText k
  | .addVxKK x k => "ADD " ++ regText x ++ ", " ++ byteText k
  | .ldVxVy x y => "LD " ++ regText x ++ ", " ++ regText y
  | .or x y => "OR " ++ regText x ++ ", " ++ regText y
  | .and x y => "AND " ++ regText x ++ ", " ++ regText y
  | .xor x y => "XOR " ++ regText x ++ ", " ++ regText y
  | .addVxVy x y => "ADD " ++ regText x ++ ", " ++ regText y
  | .sub x y => "SUB " ++ regText x ++ ", " ++ regText y
  | .shr x y => "SHR " ++ regText x ++ ", " ++ regText y
  | .subn x y => "SUBN " ++ regText x ++ ", " ++ regText y
  | .shl x y => "SHL " ++ regText x ++ ", " ++ regText y
  | .sneVxVy x y => "SNE " ++ regText x ++ ", " ++ regText y
  | .ldI a => "LD I, " ++ addressText a
  | .jpV0 a => "JP V0, " ++ addressText a
  | .rnd x k => "RND " ++ regText x ++ ", " ++ byteText k
  | .drw x y n => "DRW " ++ regText x ++ ", " ++ regText y ++ ", " ++ nibbleText n
  | .skp x => "SKP " ++ regText x
  | .sknp x => "SKNP " ++ regText x
  | .ldVxDT x => "LD " ++ regText x ++ ", DT"
  | .ldVxK x => "LD " ++ regText x ++ ", K"
  | .ldDTVx x => "LD DT, " ++ regText x
  | .ldSTVx x => "LD ST, " ++ regText x
  | .addIVx x => "ADD I, " ++ regText x
  | .ldFVx x => "LD F, " ++ regText x
  | .ldBVx x => "LD B, " ++ regText x
  | .ldMemVx x => "LD [I], " ++ regText x
  | .ldVxMem x => "LD " ++ regText x ++ ", [I]"

/-- One line of a program: an instruction, SHR or SHL with the second register omitted (then y = 0), or `DB b`. -/
inductive SourceLine where
  | instr (i : Instr)
  | shrOmitted (x : Reg)
  | shlOmitted (x : Reg)
  | db (b : Byte)
deriving DecidableEq, Repr

/-- The text of a line (R79). -/
def SourceLine.text : SourceLine → String
  | .instr i => instrText i
  | .shrOmitted x => "SHR " ++ regText x
  | .shlOmitted x => "SHL " ++ regText x
  | .db b => "DB " ++ byteText b

/-- The bytes a line places, an instruction's high byte first (20_memory.md R54). -/
def SourceLine.bytes : SourceLine → List Byte
  | .instr i => [(wordBytes (encode i)).1, (wordBytes (encode i)).2]
  | .shrOmitted x => [(wordBytes (encode (.shr x 0))).1, (wordBytes (encode (.shr x 0))).2]
  | .shlOmitted x => [(wordBytes (encode (.shl x 0))).1, (wordBytes (encode (.shl x 0))).2]
  | .db b => [b]

end Sys2Proof.Machine
end

