-- ==== Sys2Proof/Tests/Slice0.lean ====
section
/-! SUPPORT. The model's own tests. Expected values come from the vectors of 95_test_vectors.md (named W… and T-…) or from
the encoding tables of 30_encoding.md; and, for each statement with hypotheses, a witness that meets them. -/

namespace Sys2Proof.Tests

open Sys2Proof.Machine

/-! ## WellFormed: each check refuses an ill-formed term -/

theorem test_wf_accepts : OperandFields.wf .xyn { x := some 15, y := some 15, n := some 15 } = true := by decide
theorem test_wf_refuses_missing_field : OperandFields.wf .xkk { x := some 0 } = false := by decide
theorem test_wf_refuses_extra_field : OperandFields.wf .none { n := some 0 } = false := by decide
theorem test_wf_refuses_wide_x : OperandFields.wf .x { x := some 16 } = false := by decide
theorem test_wf_refuses_wide_y : OperandFields.wf .xy { x := some 0, y := some 16 } = false := by decide
theorem test_wf_refuses_wide_n : OperandFields.wf .xyn { x := some 0, y := some 0, n := some 16 } = false := by decide
theorem test_wf_refuses_wide_kk : OperandFields.wf .xkk { x := some 0, kk := some 256 } = false := by decide
theorem test_wf_refuses_wide_nnn : OperandFields.wf .nnn { nnn := some 4096 } = false := by decide

/-! ## Decoding: a word written out bit by bit from the pattern of R74, for every row -/

theorem test_decode_cls : decode 0b0000000011100000#16 = .instr .cls := by decide
theorem test_decode_ret : decode 0b0000000011101110#16 = .instr .ret := by decide
theorem test_decode_jp : decode 0b0001101010111100#16 = .instr (.jp 0xABC) := by decide
theorem test_decode_call : decode 0b0010010000000001#16 = .instr (.call 0x401) := by decide
theorem test_decode_se_imm : decode 0b0011001101000010#16 = .instr (.seVxKK 3 0x42) := by decide
theorem test_decode_sne_imm : decode 0b0100001101000010#16 = .instr (.sneVxKK 3 0x42) := by decide
theorem test_decode_se_reg : decode 0b0101000100100000#16 = .instr (.seVxVy 1 2) := by decide
theorem test_decode_ld_imm : decode 0b0110101000101111#16 = .instr (.ldVxKK 0xA 0x2F) := by decide
theorem test_decode_add_imm : decode 0b0111000111111110#16 = .instr (.addVxKK 1 0xFE) := by decide
theorem test_decode_ld_reg : decode 0b1000000100100000#16 = .instr (.ldVxVy 1 2) := by decide
theorem test_decode_or : decode 0b1000000100100001#16 = .instr (.or 1 2) := by decide
theorem test_decode_and : decode 0b1000000100100010#16 = .instr (.and 1 2) := by decide
theorem test_decode_xor : decode 0b1000000100100011#16 = .instr (.xor 1 2) := by decide
theorem test_decode_add_reg : decode 0b1000101010110100#16 = .instr (.addVxVy 0xA 0xB) := by decide
theorem test_decode_sub : decode 0b1000000100100101#16 = .instr (.sub 1 2) := by decide
theorem test_decode_shr : decode 0b1000000100100110#16 = .instr (.shr 1 2) := by decide
theorem test_decode_subn : decode 0b1000000100100111#16 = .instr (.subn 1 2) := by decide
theorem test_decode_shl : decode 0b1000000100101110#16 = .instr (.shl 1 2) := by decide
theorem test_decode_sne_reg : decode 0b1001000100100000#16 = .instr (.sneVxVy 1 2) := by decide
theorem test_decode_ld_i : decode 0b1010001011110001#16 = .instr (.ldI 0x2F1) := by decide
theorem test_decode_jp_v0 : decode 0b1011001100000001#16 = .instr (.jpV0 0x301) := by decide
theorem test_decode_rnd : decode 0b1100000100001111#16 = .instr (.rnd 1 0x0F) := by decide
theorem test_decode_drw : decode 0b1101000100100011#16 = .instr (.drw 1 2 3) := by decide
theorem test_decode_skp : decode 0b1110010110011110#16 = .instr (.skp 5) := by decide
theorem test_decode_sknp : decode 0b1110010110100001#16 = .instr (.sknp 5) := by decide
theorem test_decode_ld_from_dt : decode 0b1111001100000111#16 = .instr (.ldVxDT 3) := by decide
theorem test_decode_ld_key : decode 0b1111001000001010#16 = .instr (.ldVxK 2) := by decide
theorem test_decode_ld_to_dt : decode 0b1111001100010101#16 = .instr (.ldDTVx 3) := by decide
theorem test_decode_ld_to_st : decode 0b1111001100011000#16 = .instr (.ldSTVx 3) := by decide
theorem test_decode_add_i : decode 0b1111001000011110#16 = .instr (.addIVx 2) := by decide
theorem test_decode_ld_font : decode 0b1111001100101001#16 = .instr (.ldFVx 3) := by decide
theorem test_decode_ld_bcd : decode 0b1111101000110011#16 = .instr (.ldBVx 0xA) := by decide
theorem test_decode_store_block : decode 0b1111001001010101#16 = .instr (.ldMemVx 2) := by decide
theorem test_decode_load_block : decode 0b1111001001100101#16 = .instr (.ldVxMem 2) := by decide

/-- T-DEC-1 to T-DEC-4: words that no row matches. -/
theorem test_decode_unknown :
    [0x01E0, 0x5121, 0x8AB8, 0x9AB1, 0xE19F, 0xF0FF, 0xF000, 0x800F].all
      (fun w : Word => decide (decode w = .unknown w)) = true := by decide

/-- The encoder writes the same words. -/
theorem test_encode : (encode (.drw 1 2 3), encode (.ldBVx 0xA), encode (.jp 0xABC)) = (0xD123#16, 0xFA33#16, 0x1ABC#16) := by
  decide

/-- The table word goes through memory's byte order. -/
theorem test_decode_table_word : decodeTableWord 16 0x8AB4 = some (.addVxVy 0xA 0xB) := by decide

/-- R79: the assembly text. -/
theorem test_assembly : (instrText (.drw 1 2 3), instrText (.jpV0 0x30A)) = ("DRW V1, V2, 0x3", "JP V0, 0x30A") := by decide

/-! ## One step on a small state -/

/-- The word `w` placed at PC after reset (or at `f`'s PC), and one step. -/
def runAt (w : Nat) (f : State → State) : Option State :=
  match step ((f State.reset).withFetchWord 16 w) with
  | .next t => some t
  | .fault _ => none
  | .refused _ => none

/-- One command of the port from a state. -/
def runCommand (c : Command) (s : State) : Option State :=
  match step (s.setEnv { s.env with script := [c] }) with
  | .next t => some t
  | .fault _ => none
  | .refused _ => none

/-- The word `w` placed at PC, and one STEP with the given inputs. -/
def runWith (p : Inputs) (w : Nat) (f : State → State) : Option State :=
  runCommand (.step (some p)) ((f State.reset).withFetchWord 16 w)

/-- Registers V1 and V2. -/
def v12 (a b : Byte) (s : State) : State := (s.setV 1 a).setV 2 b

/-- V1 and VF after a step. -/
def v1f (o : Option State) : Option (Byte × Byte) := o.map fun t => (t.getV 1, t.getV 0xF)

/-- T-CLS-1. -/
theorem test_cls : (runAt 0x00E0 fun s => (s.setFb (xorCell 0 9 3 true)).setV 0xF 5).map (fun t => (t.fb, t.getV 0xF)) =
    some (0, 5) := by decide +kernel
/-- T-RET-1, T-RET-2. -/
theorem test_ret : (runAt 0x00EE fun s => (s.push 0x206).setPc 0x30A).map (fun t => (t.sp, t.pc)) = some (0, 0x206) := by
  decide
theorem test_ret_empty : (runAt 0x00EE fun s => s.setPc 0x30A).map (fun t => (t.sp, t.pc)) = some (0, 0x30C) := by decide
/-- T-JP-1. -/
theorem test_jp : (runAt 0x1ABC id).map (·.pc) = some 0xABC := by decide
/-- T-CALL-3, T-CALL-2. -/
theorem test_call : (runAt 0x2400 fun s => s.setPc 0xFFE).map (fun t => (t.stack[0], t.sp, t.pc)) =
    some (0x000, 1, 0x400) := by decide
theorem test_call_full : (runAt 0x2400 fun s => { s.setPc 0x300 with sp := 16 }).map
    (fun t => (t.sp, t.pc)) = some (16, 0x302) := by decide
/-- T-SE-1, T-SE-3. -/
theorem test_se_imm : (runAt 0x3342 fun s => s.setV 3 0x42).map (·.pc) = some 0x204 := by decide
theorem test_se_imm_wrap : (runAt 0x3000 fun s => s.setPc 0xFFE).map (·.pc) = some 0x002 := by decide
/-- T-SNE-1, T-SNE-2. -/
theorem test_sne_imm : (runAt 0x4342 fun s => s.setV 3 0x41).map (·.pc) = some 0x204 := by decide
theorem test_sne_imm_equal : (runAt 0x4342 fun s => s.setV 3 0x42).map (·.pc) = some 0x202 := by decide
/-- T-SEXY-1, T-SEXY-2. -/
theorem test_se_reg : (runAt 0x5120 (v12 7 7)).map (·.pc) = some 0x204 := by decide
theorem test_se_reg_differ : (runAt 0x5120 (v12 7 8)).map (·.pc) = some 0x202 := by decide
/-- T-LD-1. -/
theorem test_ld_imm : (runAt 0x6A2F id).map (·.getV 0xA) = some 0x2F := by decide
/-- T-ADDI-1. -/
theorem test_add_imm : (runAt 0x7003 fun s => (s.setV 0 0xFE).setV 0xF 0x55).map (fun t => (t.getV 0, t.getV 0xF)) =
    some (0x01, 0x55) := by decide
/-- T-LD-2. -/
theorem test_ld_reg : (runAt 0x8010 fun s => s.setV 1 0x33).map (·.getV 0) = some 0x33 := by decide
/-- T-OR-1, T-AND-1, T-XOR-1. -/
theorem test_or : v1f (runAt 0x8121 fun s => (v12 0xF0 0x0C s).setV 0xF 0x77) = some (0xFC, 0x77) := by decide
theorem test_and : v1f (runAt 0x8122 (v12 0xF0 0x3C)) = some (0x30, 0) := by decide
theorem test_xor : v1f (runAt 0x8123 (v12 0xF0 0x3C)) = some (0xCC, 0) := by decide
/-- T-ADD-1, T-ADD-6. -/
theorem test_add_reg : v1f (runAt 0x8124 (v12 0xFF 0x01)) = some (0x00, 1) := by decide
theorem test_add_reg_from_vf : v1f (runAt 0x81F4 fun s => (s.setV 1 0x10).setV 0xF 0xF5) = some (0x05, 1) := by decide
/-- T-SUB-3, T-SUB-4. -/
theorem test_sub_equal : v1f (runAt 0x8125 (v12 0x07 0x07)) = some (0x00, 0) := by decide
theorem test_sub_into_vf : v1f (runAt 0x8F15 fun s => (s.setV 1 0x04).setV 0xF 0x09) = some (0x04, 1) := by decide
/-- T-SHR-1, T-SHR-4. -/
theorem test_shr : v1f (runAt 0x8126 (v12 0x81 0x00)) = some (0x40, 1) := by decide
theorem test_shr_into_vf : v1f (runAt 0x8F06 fun s => s.setV 0xF 0x02) = some (0x00, 0x01) := by decide
/-- T-SUBN-1, T-SUBN-2. -/
theorem test_subn : v1f (runAt 0x8127 (v12 0x03 0x05)) = some (0x02, 1) := by decide
theorem test_subn_borrow : v1f (runAt 0x8127 (v12 0x05 0x03)) = some (0xFE, 0) := by decide
/-- T-SHL-1, T-SHL-3. -/
theorem test_shl : v1f (runAt 0x812E (v12 0x81 0xFF)) = some (0x02, 1) := by decide
theorem test_shl_into_vf : v1f (runAt 0x8F0E fun s => s.setV 0xF 0x81) = some (0x00, 0x02) := by decide
/-- T-SNEXY-1, T-SNEXY-2. -/
theorem test_sne_reg : (runAt 0x9120 (v12 7 8)).map (·.pc) = some 0x204 := by decide
theorem test_sne_reg_same : (runAt 0x9440 id).map (·.pc) = some 0x202 := by decide
/-- T-LDI-1. -/
theorem test_ld_i : (runAt 0xA2F0 fun s => s.setI 0xFFFF).map (·.i) = some 0x02F0 := by decide
/-- T-JPV0-2, T-JPV0-3. -/
theorem test_jp_v0_wrap : (runAt 0xBFFF fun s => s.setV 0 0xFF).map (·.pc) = some 0x0FE := by decide
theorem test_jp_v0_only : (runAt 0xB123 fun s => s.setV 1 0x40).map (·.pc) = some 0x123 := by decide
/-- T-RND-1. -/
theorem test_rnd : (runWith ⟨0, 0xA7⟩ 0xC10F id).map (·.getV 1) = some 0x07 := by decide
/-- T-DRW-3, T-DRW-8. -/
theorem test_drw_wrap : (runAt 0xD012 fun s =>
      ((((s.writeByte 0x300 0xC0).writeByte 0x301 0xC0).setI 0x300).setV 0 63).setV 1 31).map
    (fun t => (cellAt t.fb 63 31, cellAt t.fb 0 31, cellAt t.fb 63 0, cellAt t.fb 0 0, cellAt t.fb 1 0, t.getV 0xF)) =
      some (true, true, true, true, false, 0) := by decide +kernel
theorem test_drw_from_vf : (runAt 0xDF11 fun s => (((s.writeByte 0x300 0x80).setI 0x300).setV 0xF 5).setV 1 2).map
    (fun t => (t.fb, t.getV 0xF)) = some (BitVec.twoPow 2048 133, 0) := by decide +kernel
/-- T-SKP-1, T-SKP-3. -/
theorem test_skp : (runWith ⟨0x0080, 0⟩ 0xE59E fun s => s.setV 5 0x07).map (·.pc) = some 0x204 := by decide
theorem test_skp_masked : (runWith ⟨0x0004, 0⟩ 0xE59E fun s => s.setV 5 0x12).map (·.pc) = some 0x204 := by decide
/-- T-SKNP-1, T-SKNP-2. -/
theorem test_sknp : (runWith ⟨0xFF7F, 0⟩ 0xE5A1 fun s => s.setV 5 0x07).map (·.pc) = some 0x204 := by decide
theorem test_sknp_held : (runWith ⟨0x0080, 0⟩ 0xE5A1 fun s => s.setV 5 0x07).map (·.pc) = some 0x202 := by decide
/-- T-DT-1, T-DT-2, T-ST-S-1. -/
theorem test_ld_from_dt : (runAt 0xF307 fun s => s.setDt 0x3C).map (·.getV 3) = some 0x3C := by decide
theorem test_ld_to_dt : (runAt 0xF315 fun s => s.setV 3 0x3C).map (·.dt) = some 0x3C := by decide
theorem test_ld_to_st : (runAt 0xF318 fun s => s.setV 3 0x05).map (fun t => (t.st, t.out.audioValid)) =
    some (0x05, false) := by decide
/-- T-WAIT-1, and T-WAIT-4 after it. -/
theorem test_ld_key : (runAt 0xF20A id).map (fun t => (t.latch, t.pc, t.waiting, t.waitReg, t.getV 2)) =
    some (some 2, 0x202, true, 2, 0) := by decide
theorem test_key_delivered : ((runAt 0xF20A id).bind (runCommand (.key 0xB))).map
    (fun t => (t.getV 2, t.latch, t.pc)) = some (0x0B, none, 0x202) := by decide
/-- T-ADDI-I-2, T-ADDI-I-3. -/
theorem test_add_i_not_masked : (runAt 0xF21E fun s => (s.setI 0x0FFF).setV 2 1).map (·.i) = some 0x1000 := by decide
theorem test_add_i_wrap : (runAt 0xF21E fun s => (s.setI 0xFFFF).setV 2 1).map (·.i) = some 0x0000 := by decide
/-- T-FONT-1, T-FONT-2. -/
theorem test_ld_font : (runAt 0xF329 fun s => s.setV 3 0x1A).map (·.i) = some 0x082 := by decide
theorem test_ld_font_f : (runAt 0xF329 fun s => s.setV 3 0xFF).map (·.i) = some 0x09B := by decide
/-- T-BCD-6. -/
theorem test_ld_bcd_wrap : (runAt 0xF033 fun s => (s.setV 0 0x7B).setI 0x0FFF).map
    (fun t => (t.readByte 0xFFF, t.readByte 0x000, t.readByte 0x001, t.i)) = some (1, 2, 3, 0x0FFF) := by decide
/-- T-ST-1. -/
theorem test_store_block : (runAt 0xF255 fun s => ((v12 2 3 s).setV 0 1).setI 0x400).map
    (fun t => (t.mem, t.i)) = some ([(0x200, 0xF2), (0x201, 0x55), (0x400, 1), (0x401, 2), (0x402, 3)], 0x400) := by decide
/-- T-LDM-1. -/
theorem test_load_block : (runAt 0xF265 fun s =>
      (((s.writeByte 0x300 2).writeByte 0x301 5).writeByte 0x302 4).setI 0x300 |>.setV 3 9).map
    (fun t => (t.getV 0, t.getV 1, t.getV 2, t.getV 3)) = some (2, 5, 4, 9) := by decide

/-- T-CYC-1: the fetch wraps. -/
theorem test_fetch_wraps : (runAt 0x6012 fun s => s.setPc 0xFFF).map (fun t => (t.getV 0, t.pc)) = some (0x12, 0x001) := by
  decide
/-- T-CYC-2. -/
theorem test_decode_miss : (runAt 0x0123 id).map (fun t => (t.pc, t.out.decodeMiss, t.out.missWord)) =
    some (0x202, true, 0x0123) := by decide
/-- T-WAIT-2. -/
theorem test_step_while_waiting : ((runAt 0xF20A id).bind (runCommand (.step none))).map (fun t => (t.pc, t.latch)) =
    some (0x202, some 2) := by decide
/-- T-TICK-1, T-TICK-2. -/
theorem test_tick : (runCommand .tick ((State.reset.setDt 2).setSt 1)).map
    (fun t => (t.dt, t.st, t.out.audioValid, t.out.audioPause)) = some (1, 0, true, true) := by decide
theorem test_tick_at_zero : (runCommand .tick State.reset).map (fun t => (t.dt, t.st, t.out.audioPause)) =
    some (0, 0, true) := by decide
/-- T-LOAD-1. -/
theorem test_load : (runCommand (.load [0x12, 0x34]) State.reset).map (fun t => (t.mem, t.out.loadOk, t.pc)) =
    some ([(0x200, 0x12), (0x201, 0x34)], true, 0x200) := by decide
/-- T-RST-1. -/
theorem test_reset : (runCommand .reset ((State.reset.setLatch (some 3)).writeByte 0x300 7)).map
    (fun t => (t.latch, t.pc, t.mem)) = some (none, 0x200, []) := by decide

/-- From reset with nothing placed the first STEP meets the UNKNOWN word 0x0000 (log 3). -/
theorem test_first_step_of_empty_memory : State.reset.fetch = 0x0000 ∧ decode State.reset.fetch = .unknown 0x0000 := by decide

/-! ## Witnesses: for each statement of the obligations with hypotheses, a state and operands that meet them together -/

/-- The reset state with a word where the next STEP fetches it. -/
def placed (w : Nat) : State := State.reset.withFetchWord 16 w

/-- A state whose environment issues `c` next. -/
def issuing (c : Command) (s : State) : State := s.setEnv { s.env with script := [c] }

/-- A state in which a key is awaited for V2. -/
def waiting2 : State := State.reset.setLatch (some 2)

/-- The reset state with a full call stack, and one with a single entry. -/
def fullStack : State := { State.reset with sp := 16 }
def oneEntry : State := State.reset.push 0x206

theorem witness_EncodeInvertsDecode : decode 0x812E = .instr (.shl 1 2) := by decide

theorem witness_DecodeFollowsOpcodeTable :
    (⟨"SHL", 0xF00F, 0x800E⟩ ∈ opcodeTable ∧ (⟨"SHL", 0xF00F, 0x800E⟩ : OpcodeRow).Matches 0x812E) ∧
    ∀ r ∈ opcodeTable, ¬r.Matches 0x0123 := by decide

/-- Each clause of the UNKNOWN table at the edges of its range, and words just outside it. -/
theorem witness_UnknownSpaceIsTabled :
    (∀ w ∈ [0x0000, 0x00DF, 0x00E1, 0x00EF, 0x0FFF, 0x5001, 0x5FFF, 0x8008, 0x8FFD, 0x8FFF, 0x9001, 0x9FFF, 0xE000, 0xE09D,
      0xEFFF, 0xF000, 0xF006, 0xFFFF], InUnknownSpace w) ∧
    (∀ w ∈ [0x00E0, 0x00EE, 0x1000, 0x4FFF, 0x5FF0, 0x8007, 0x8FFE, 0x9FF0, 0xA000, 0xDFFF, 0xE09E, 0xEFA1, 0xF007, 0xFF65],
      ¬InUnknownSpace w) := by
  unfold InUnknownSpace; decide

/-- A given input, a free one for an instruction that samples it, and a free one for an instruction that does not. -/
theorem witness_StepRunsDecodedInstruction :
    (issuing (.step (some ⟨0x0080, 0xA7⟩)) (placed 0xC10F)).Executes (some ⟨0x0080, 0xA7⟩) (.rnd 1 0x0F) ∧
    (placed 0xE59E).Executes none (.skp 5) ∧ samplesInput (.skp 5) = true ∧
    (placed 0x8124).Executes none (.addVxVy 1 2) ∧ samplesInput (.addVxVy 1 2) = false := by
  unfold State.Executes State.StepsNext; decide

theorem witness_UnknownWordIsReportedNop :
    (placed 0x0123).StepsNext none ∧ decode (placed 0x0123).fetch = .unknown (placed 0x0123).fetch ∧
    InUnknownSpace (0x0123#16).toNat := by
  unfold State.StepsNext InUnknownSpace; decide

theorem witness_WaitingStepChangesNothing : waiting2.env.nextCommand = .step none ∧ waiting2.latch = some 2 := by decide

theorem witness_PlacedWordIsExecuted : Memory.wf State.reset.font State.reset.mem ∧ decode 0x8124 = .instr (.addVxVy 1 2) ∧
    0x300 % 4096 ≠ State.reset.pc.toNat % 4096 ∧ 0x300 % 4096 ≠ (State.reset.pc.toNat + 1) % 4096 := by decide

theorem witness_StepKeepsInvariant : (placed 0x2400).Inv ∧
    step (placed 0x2400) = .next { (placed 0x2400) with
      pc := 0x400, sp := 1, stack := (placed 0x2400).stack.set 0 0x202,
      out := { Outputs.reset with missWord := 0x2400 } } := ⟨by decide, rfl⟩

theorem witness_CanonicalMemoriesAreEqual :
    Memory.wf defaultFont (Memory.write defaultFont [] 0x300 1) ∧ Memory.wf defaultFont [(0x300, 1)] ∧
    ∀ a, Memory.read defaultFont (Memory.write defaultFont [] 0x300 1) a = Memory.read defaultFont [(0x300, 1)] a := ⟨by decide, by decide, fun _ => rfl⟩

theorem witness_SelfModifyingStoreIsFetched : Memory.wf (State.reset.setI 0x200).font (State.reset.setI 0x200).mem ∧
    (1#4).toNat = (0#4).toNat + 1 ∧ (1#4).toNat ≤ (1#4).toNat ∧
    (State.reset.setI 0x200).pc.toNat % 4096 = (State.reset.setI 0x200).effectiveAddress (0#4).toNat := by decide

theorem witness_JumpGoesToAddress :
    (placed 0x1200).Executes none (.jp 0x200) ∧ (placed 0x1200).pc = zextAddress 0x200 := by
  unfold State.Executes State.StepsNext; decide

/-- Room on the stack, at both ends of the range; no room; a CALL at 0xFFE. -/
theorem witness_CallPushesReturnAddress :
    State.reset.sp.val = 0 ∧ ({ State.reset with sp := 15 } : State).sp.val < 16 ∧ fullStack.sp.val = 16 ∧
    ((State.reset.setPc 0xFFE).withFetchWord 16 0x2400).Executes none (.call 0x400) ∧
    ((State.reset.setPc 0xFFE).pc.toNat + 2) % 4096 = 0 := by
  unfold State.Executes State.StepsNext; decide

theorem witness_ReturnPopsPc : State.reset.sp.val = 0 ∧ oneEntry.sp.val ≠ 0 ∧ fullStack.sp.val ≠ 0 := by decide

theorem witness_SkipOnRegisters :
    (fieldFamily 0x5121 = 0x5 ∧ fieldN 0x5121 ≠ 0) ∧ (fieldFamily 0x912F = 0x9 ∧ fieldN 0x912F ≠ 0) ∧
    (0x5120#16 &&& 0xF00F = 0x5000) ∧ (0x9120#16 &&& 0xF00F = 0x9000) := by decide

theorem witness_CallThenReturnRestoresPc : State.reset.sp.val < 16 ∧ State.reset.pc.toNat < 4096 ∧
    (oneEntry.setPc 0x30A).sp = oneEntry.sp ∧ (oneEntry.setPc 0x30A).stack = oneEntry.stack := by decide

/-- `x` is and is not VF (AddSetsCarry, SubtractSetsNoBorrow, ShiftsMoveOneBitIntoFlag). -/
theorem witness_flag_register : (0x1#4 : Reg) ≠ regF ∧ (0xF#4 : Reg) = regF := by decide

theorem witness_RandomByteIsMasked :
    (issuing (.step (some ⟨0, 0xA7⟩)) (placed 0xC10F)).Executes (some ⟨0, 0xA7⟩) (.rnd 1 0x0F) ∧
    (placed 0xC1FF).Executes none (.rnd 1 0xFF) := by
  unfold State.Executes State.StepsNext; decide

theorem witness_FlagWritersLeaveZeroOrOne : (0x1#4 : Reg) ≠ regF ∧
    Instr.sub 1 2 ∈ [Instr.addVxVy 1 2, .sub 1 2, .shr 1 2, .subn 1 2, .shl 1 2, .drw 1 2 3] ∧
    exec (.sub 1 2) State.reset = .next (State.reset.setV 0xF 0) := ⟨by decide, by decide, rfl⟩

/-- An address outside the stored bytes, with I at the top of memory (StoreDecimalDigits, StoreRegisterBlock). -/
theorem witness_stores : Memory.wf (State.reset.setI 0xFFF).font (State.reset.setI 0xFFF).mem ∧
    (∀ k < 3, 0x300 % 4096 ≠ (State.reset.setI 0xFFF).effectiveAddress k) ∧
    (∀ k ≤ (0xF#4).toNat, 0x300 % 4096 ≠ (State.reset.setI 0xFFF).effectiveAddress k) ∧
    (State.reset.setI 0xFFF).effectiveAddress 1 = 0 := by decide

/-- The glyph of "1" (0x20 first) drawn at (63, 31): it covers (1, 31), reached by wrapping, and not (0, 31). -/
theorem witness_DrawFlipsCoveredCells :
    (((State.reset.setI 0x055).setV 1 63).setV 2 31).DrawCovers 1 2 1 1 31 ∧
    ¬(((State.reset.setI 0x055).setV 1 63).setV 2 31).DrawCovers 1 2 1 0 31 ∧
    cellAt (xorCell 0 1 31 true) 1 31 = true ∧ cellAt (0 : Framebuffer) 1 31 = false := by
  unfold State.DrawCovers SpriteCovers
  refine ⟨⟨0, by decide, 2, by decide, ?_⟩, ?_, by decide +kernel, by decide +kernel⟩ <;> decide +kernel

/-- The first draw of DrawTwiceRestores covers a cell and hits none. -/
theorem witness_DrawTwiceRestores : (1 : Reg) ≠ regF ∧ (2 : Reg) ≠ regF ∧
    (State.reset.setI 0x050).DrawCovers 1 2 1 0 0 ∧
    ((State.reset.setI 0x050).drawSprite 0 0 1).hit = false := by
  refine ⟨by decide, by decide, ⟨0, by decide, 0, by decide, ?_⟩, ?_⟩ <;> decide +kernel

theorem witness_DelayTimerTransfers : exec (.ldDTVx 3) (State.reset.setV 3 9) = .next ((State.reset.setV 3 9).setDt 9) ∧
    (State.reset.setV 3 9).dt.toNat < ((State.reset.setV 3 9).setDt 9).dt.toNat := ⟨rfl, by decide⟩

theorem witness_SoundTimerLoad : (placed 0xF318).Executes none (.ldSTVx 3) := by
  unfold State.Executes State.StepsNext; decide

theorem witness_WaitForKeySetsLatch : (placed 0xF20A).Executes none (.ldVxK 2) := by
  unfold State.Executes State.StepsNext; decide

theorem witness_KeyEndsWait :
    let s := (placed 0xF20A).setEnv { Environment.reset with script := [.step none, .key 0xB] }
    s.Executes none (.ldVxK 2) ∧ s.env.script = .step none :: .key 0xB :: [] := by
  unfold State.Executes State.StepsNext; decide

theorem witness_TickCountsDown : (issuing .tick State.reset).env.nextCommand = .tick := by decide

theorem witness_KeyDelivery : (issuing (.key 0xF) waiting2).env.nextCommand = .key 0xF ∧
    (issuing (.key 0xF) waiting2).latch = some 2 ∧ (issuing (.key 0xF) State.reset).latch = none := by decide

/-- A LOAD of 3584 bytes, and one of 3585 (W14, W15). -/
theorem witness_LoadCopiesOrRejects :
    Memory.wf State.reset.font State.reset.mem ∧
    (issuing (.load (List.replicate 3584 0x12)) State.reset).env.nextCommand = .load (List.replicate 3584 0x12) ∧
    (issuing (.load (List.replicate 3585 0x12)) State.reset).env.nextCommand = .load (List.replicate 3585 0x12) ∧
    (List.replicate 3584 (0x12#8)).length ≤ 3584 ∧ 3584 < (List.replicate 3585 (0x12#8)).length := by
  refine ⟨by decide, rfl, rfl, ?_, ?_⟩ <;> rw [List.length_replicate]; exact Nat.lt_succ_self _

theorem witness_ResetCommandRecreatesState : (issuing .reset waiting2).env.nextCommand = .reset := by decide

/-- The first and the last byte of a FONT, for the default one and for another: FONT is any 80 bytes (R10). -/
theorem witness_ResetEntryPointAndFont :
    (State.reset.readByte 0x050, State.reset.readByte 0x09F) = (0xF0, 0x80) ∧
    ((State.resetWith ((Vector.replicate 80 0x11).set 79 0x22)).readByte 0x050,
      (State.resetWith ((Vector.replicate 80 0x11).set 79 0x22)).readByte 0x09F) = (0x11, 0x22) := by decide

/-- RESET restores the machine's own FONT, not the default one. -/
theorem test_reset_keeps_font : (runCommand .reset ((State.resetWith (Vector.replicate 80 0x11)).writeByte 0x050 7)).map
    (fun t => t.readByte 0x050) = some 0x11 := by decide

theorem witness_BootFetchesProgram : (List.replicate 3582 (0x12#8)).length + 2 ≤ 3584 := by
  rw [List.length_replicate]

theorem witness_RegistersWrittenAsTabled : exec (.or 1 2) State.reset = .next (State.reset.setV 1 0) ∧
    writesV (.or 1 2) 3 = false := ⟨rfl, by decide⟩

theorem witness_ComponentsWrittenAsTabled : exec (.ldI 0x2F0) State.reset = .next (State.reset.setI 0x2F0) ∧
    mayWrite (.ldI 0x2F0) .pc = false ∧ mayWrite (.ldI 0x2F0) .i = true := ⟨rfl, by decide, by decide⟩

/-- Two states that differ in V3 alone, which OR V1, V2 does not read. -/
theorem witness_ResultsDependOnReadRegistersOnly :
    State.reset.setV 3 9 = { State.reset with v := (State.reset.setV 3 9).v } ∧
    (∀ r, readsV (.or 1 2) r = true → (State.reset.setV 3 9).getV r = State.reset.getV r) ∧
    exec (.or 1 2) State.reset = .next (State.reset.setV 1 0) ∧
    exec (.or 1 2) (State.reset.setV 3 9) = .next ((State.reset.setV 3 9).setV 1 0) :=
  ⟨rfl, by decide, rfl, rfl⟩

theorem witness_InputsReadAsTabled : exec (.or 1 2) State.reset = .next (State.reset.setV 1 0) ∧
    (∀ x, Instr.or 1 2 ≠ .skp x) ∧ (∀ x, Instr.or 1 2 ≠ .sknp x) ∧ ∀ x kk, Instr.or 1 2 ≠ .rnd x kk :=
  ⟨rfl, by simp, by simp, by simp⟩

/-- The steps from these states answer a next state (FsmFollowsTable, ReportsFollowCommands, and the three below). -/
theorem witness_FsmFollowsTable : ∃ t, step (placed 0xF20A) = .next t ∧ t.latch = some 2 := ⟨_, rfl, by decide⟩

theorem witness_TimersChangeOnlyByLoadsAndTicks :
    (∃ t, step (issuing .tick (State.reset.setDt 2)) = .next t ∧ t.dt.toNat < 2) ∧
    (∃ t, step ((State.reset.setV 3 9).withFetchWord 16 0xF315) = .next t ∧ State.reset.dt.toNat < t.dt.toNat) ∧
    (∃ t, step ((State.reset.setV 3 9).withFetchWord 16 0xF318) = .next t ∧ State.reset.st.toNat < t.st.toNat) ∧
    (∃ t, step (issuing .reset (State.reset.setDt 2)) = .next t ∧ t.dt ≠ 2) :=
  ⟨⟨_, rfl, by decide⟩, ⟨_, rfl, by decide⟩, ⟨_, rfl, by decide⟩, ⟨_, rfl, by decide⟩⟩

theorem witness_ReportsFollowCommands :
    (∃ t, step (issuing .tick State.reset) = .next t ∧ t.out.audioValid = true) ∧
    (∃ t, step (placed 0x0123) = .next t ∧ t.out.decodeMiss = true) := ⟨⟨_, rfl, by decide⟩, ⟨_, rfl, by decide⟩⟩

/-- The last register, and none, on the wait port. -/
theorem witness_WaitPortsShowLatch : (State.reset.setLatch (some 0xF)).latch = some 0xF ∧ State.reset.waiting = false := by
  decide

theorem witness_OnlyStepAndResetMovePc :
    (∃ t, step (placed 0x1ABC) = .next t ∧ t.pc ≠ (placed 0x1ABC).pc) ∧
    (∃ t, step (issuing .reset (State.reset.setPc 0x300)) = .next t ∧ t.pc ≠ 0x300) :=
  ⟨⟨_, rfl, by decide⟩, ⟨_, rfl, by decide⟩⟩

/-- CLS unlights cell (63, 31), the last one. -/
theorem witness_FramebufferChangesOnlyByDrawing :
    ∃ t, step ((placed 0x00E0).setFb (xorCell 0 63 31 true)) = .next t ∧
      cellAt t.fb 63 31 ≠ cellAt (xorCell 0 63 31 true) 63 31 := ⟨_, rfl, by decide +kernel⟩

/-- A store that wraps to address 0, and a LOAD. -/
theorem witness_MemoryChangesOnlyByStoresAndLoads :
    Memory.wf State.reset.font (((placed 0xF155).setV 1 7).setI 0xFFF).mem ∧
    (∃ t, step (((placed 0xF155).setV 1 7).setI 0xFFF) = .next t ∧ t.readByte 0 ≠ 0) ∧
    (∃ t, step (issuing (.load [0x12]) State.reset) = .next t ∧ t.readByte 0x200 ≠ 0) :=
  ⟨by decide, ⟨_, rfl, by decide⟩, ⟨_, rfl, by decide⟩⟩

end Sys2Proof.Tests
end

/-! The proofs of the statements about the state (10_state.md): first the rules of the shared operations and the frame of
`exec`, then each statement from them. -/

namespace Sys2Proof.Machine

/-! ## What the shared operations of an instruction keep of the invariant -/

/-- An assignment to PC keeps the invariant: PC is masked (10_state.md R24). -/
theorem State.Inv.setPc {s : State} (hs : s.Inv) (a : Word) : (s.setPc a).Inv :=
  ⟨State.setPc_lt s a, hs.2⟩

theorem State.Inv.skipIf {s : State} (hs : s.Inv) (c : Bool) : (s.skipIf c).Inv := by
  cases c
  · exact hs
  · exact hs.setPc _

/-- A push of a PC value keeps the invariant; every other entry was one already (10_state.md R35). -/
theorem State.Inv.push {s : State} (hs : s.Inv) {a : Word} (ha : a.toNat < 4096) : (s.push a).Inv := by
  obtain ⟨hpc, hstack, hmem⟩ := hs
  by_cases hroom : s.sp.val < 16
  · rw [State.push_of_lt hroom]
    refine ⟨hpc, fun j => ?_, hmem⟩
    rw [Vector.getElem_set]
    split
    · exact ha
    · exact hstack j
  · rw [State.push_of_full hroom]
    exact ⟨hpc, hstack, hmem⟩

theorem State.Inv.popPc {s : State} (hs : s.Inv) : s.popPc.Inv := by
  by_cases hempty : s.sp.val = 0
  · rwa [State.popPc_of_zero hempty]
  · rw [State.popPc_of_pos hempty]
    exact hs.setPc _

theorem State.Inv.writeByte {s : State} (hs : s.Inv) (a : Nat) (x : Byte) : (s.writeByte a x).Inv := by
  obtain ⟨hpc, hstack, hmem⟩ := hs
  exact ⟨hpc, hstack, State.writeByte_wf hmem a x⟩

theorem State.Inv.writeBytes {s : State} (hs : s.Inv) (a : Nat) (data : List Byte) : (s.writeBytes a data).Inv := by
  obtain ⟨hpc, hstack, hmem⟩ := hs
  rw [State.writeBytes_frame]
  exact ⟨hpc, hstack, State.writeBytes_wf data hmem a⟩

theorem State.Inv.storeRegs {s : State} (hs : s.Inv) (k : Nat) : (s.storeRegs k).Inv := by
  obtain ⟨hpc, hstack, hmem⟩ := hs
  rw [State.storeRegs_frame]
  exact ⟨hpc, hstack, State.storeRegs_wf hmem k⟩

theorem State.Inv.loadRegs {s : State} (hs : s.Inv) (k : Nat) : (s.loadRegs k).Inv := by
  rw [State.loadRegs_frame]
  exact hs

theorem State.Inv.resetWith (font : Font) : (State.resetWith font).Inv :=
  ⟨(by decide : (0x200#16).toNat < 4096), fun j => by simp [State.resetWith], Memory.wf_nil⟩

/-! ## What an instruction may write -/

/-- The state `t` after an instruction that started in `s`, with every part outside `written` and V taken from `s`. -/
def State.takeWritten (written : Component → Bool) (s t : State) : State :=
  { s with
    v := t.v
    pc := if written .pc then t.pc else s.pc
    i := if written .i then t.i else s.i
    sp := if written .sp then t.sp else s.sp
    stack := if written .stack then t.stack else s.stack
    dt := if written .dt then t.dt else s.dt
    st := if written .st then t.st else s.st
    latch := if written .latch then t.latch else s.latch
    fb := if written .fb then t.fb else s.fb
    mem := if written .mem then t.mem else s.mem }

/-- CALL on a stack with room, and on a full one (40_control_flow.md R106). -/
theorem exec_call (nnn : Address) (s : State) :
    exec (.call nnn) s = .next (if s.sp.val < 16 then (s.push s.pc).setPc (zextAddress nnn) else s) :=
  (apply_ite Host.Outcome.next ..).symm

/-- The frame of every instruction: it changes V and the parts its table row lists, and nothing else. -/
theorem exec_frame {i : Instr} {s t : State} (h : exec i s = .next t) : t = s.takeWritten (mayWrite i) t := by
  cases i with
  | seVxKK | sneVxKK | seVxVy | sneVxVy | skp | sknp =>
    cases h
    rw [State.skipIf_eq]; rfl
  | call nnn =>
    rw [exec_call] at h
    cases h
    by_cases hroom : s.sp.val < 16
    · rw [if_pos hroom, State.push_of_lt hroom]; rfl
    · rw [if_neg hroom]; rfl
  | ret =>
    cases h
    by_cases hempty : s.sp.val = 0
    · rw [State.popPc_of_zero hempty]; rfl
    · rw [State.popPc_of_pos hempty]; rfl
  | ldMemVx =>
    cases h
    rw [State.storeRegs_frame]; rfl
  | ldVxMem =>
    cases h
    exact State.loadRegs_frame ..
  | cls | jp | jpV0 | ldI | addIVx | ldFVx | ldDTVx | ldSTVx | ldVxK | ldBVx | drw | ldVxKK | addVxKK | ldVxVy | or | and
  | xor | addVxVy | sub | subn | shr | shl | rnd | ldVxDT =>
    cases h
    rfl

theorem exec_dt {i : Instr} {s t : State} (h : exec i s = .next t) : t.dt = if mayWrite i .dt then t.dt else s.dt :=
  congrArg State.dt (exec_frame h)

theorem exec_st {i : Instr} {s t : State} (h : exec i s = .next t) : t.st = if mayWrite i .st then t.st else s.st :=
  congrArg State.st (exec_frame h)

theorem exec_out {i : Instr} {s t : State} (h : exec i s = .next t) : t.out = s.out := by
  rw [exec_frame h]; rfl

theorem exec_font {i : Instr} {s t : State} (h : exec i s = .next t) : t.font = s.font := by
  rw [exec_frame h]; rfl

theorem exec_env {i : Instr} {s t : State} (h : exec i s = .next t) : t.env = s.env := by
  rw [exec_frame h]; rfl

/-! ## The invariant -/

/-- Every instruction keeps the invariant: PC is only assigned masked, the stack only takes PC, memory is only written byte by
byte. -/
theorem exec_keeps_inv {i : Instr} {s t : State} (h : exec i s = .next t) (hs : s.Inv) : t.Inv := by
  cases i with
  | jp | jpV0 =>
    cases h
    exact hs.setPc _
  | seVxKK | sneVxKK | seVxVy | sneVxVy | skp | sknp =>
    cases h
    exact hs.skipIf _
  | call nnn =>
    rw [exec_call] at h
    cases h
    split
    · exact (hs.push hs.1).setPc _
    · exact hs
  | ret =>
    cases h
    exact hs.popPc
  | ldBVx =>
    cases h
    exact ((hs.writeByte ..).writeByte ..).writeByte ..
  | ldMemVx =>
    cases h
    exact hs.storeRegs _
  | ldVxMem =>
    cases h
    exact hs.loadRegs _
  | cls | ldI | addIVx | ldFVx | ldDTVx | ldSTVx | ldVxK | drw | ldVxKK | addVxKK | ldVxVy | or | and | xor | addVxVy | sub
  | subn | shr | shl | rnd | ldVxDT =>
    cases h
    exact hs

/-- Sampling the inputs touches the environment alone, so it keeps the invariant. -/
theorem State.Inv.sample {s : State} (hs : s.Inv) (g : Option Inputs) (i : Instr) : (s.sample g i).Inv := by
  rw [State.sample_frame]
  exact hs

theorem State.Inv.loadCommand {s : State} (hs : s.Inv) (data : List Byte) : (s.loadCommand data).Inv := by
  unfold State.loadCommand
  split
  · exact hs
  · exact hs.writeBytes 0x200 data

theorem State.loadCommand_font (s : State) (data : List Byte) : (s.loadCommand data).font = s.font := by
  unfold State.loadCommand
  split
  · rfl
  · exact State.writeBytes_font ..

theorem State.Inv.keyCommand {s : State} (hs : s.Inv) (k : Nibble) : (s.keyCommand k).Inv := by
  unfold State.keyCommand
  split <;> exact hs

theorem State.keyCommand_font (s : State) (k : Nibble) : (s.keyCommand k).font = s.font := by
  unfold State.keyCommand
  split <;> rfl

/-- Settles O12: each of the commands keeps the invariant, a STEP by `exec_keeps_inv` from the advanced PC. -/
theorem stepKeepsInvariant : Obligations.StepKeepsInvariant := by
  intro s t hs hstep
  have hissued : (s.setEnv s.env.issued).Inv := hs
  obtain ⟨-, h⟩ | ⟨data, -, h⟩ | ⟨-, h⟩ | ⟨k, -, h⟩ | ⟨g, x, -, -, h⟩ | ⟨g, w, -, -, -, h⟩ | ⟨g, i, -, -, -, h⟩ :=
    step_cases s <;> rw [h] at hstep
  · cases hstep
    exact ⟨State.Inv.resetWith s.font, rfl⟩
  · cases hstep
    exact ⟨hissued.loadCommand data, State.loadCommand_font ..⟩
  · cases hstep
    exact ⟨hissued, rfl⟩
  · cases hstep
    exact ⟨hissued.keyCommand k, State.keyCommand_font ..⟩
  · cases hstep
    exact ⟨hissued, rfl⟩
  · cases hstep
    exact ⟨hissued.setPc _, rfl⟩
  · refine ⟨exec_keeps_inv hstep ((hissued.sample g i).setPc _), (exec_font hstep).trans ?_⟩
    rw [State.sample_frame]; rfl

/-- Settles O13: `State.Inv.resetWith` at the default FONT and at every other. -/
theorem resetMeetsInvariant : Obligations.ResetMeetsInvariant :=
  ⟨State.Inv.resetWith defaultFont, State.Inv.resetWith⟩

/-! ## The tables of who writes what -/

/-- Settles O51: the frame of every instruction, read off for each component. -/
theorem componentsWrittenAsTabled : Obligations.ComponentsWrittenAsTabled := by
  intro i s t c h
  refine ⟨fun hc => ?_, exec_out h, exec_font h, exec_env h⟩
  have hframe := exec_frame h
  cases c with
  | fb => intro col row; rw [hframe]; simp [State.takeWritten, hc]
  | mem => exact State.readByte_congr (by rw [hframe]; simp [State.takeWritten, hc]) (exec_font h)
  | pc | i | sp | stack | dt | st | latch => rw [Unchanged, hframe]; simp [State.takeWritten, hc]

@[simp] theorem State.skipIf_v (s : State) (c : Bool) : (s.skipIf c).v = s.v := by rw [State.skipIf_eq]

@[simp] theorem State.push_v (s : State) (a : Word) : (s.push a).v = s.v := by
  unfold State.push; split <;> rfl

@[simp] theorem State.popPc_v (s : State) : s.popPc.v = s.v := by
  unfold State.popPc; split <;> rfl

@[simp] theorem State.storeRegs_v (s : State) (k : Nat) : (s.storeRegs k).v = s.v := by rw [State.storeRegs_frame]

theorem blockLength_le (x : Reg) : blockLength x ≤ 16 := x.isLt

/-- An instruction leaves every register outside the column "writes V" of 10_state.md R22. -/
theorem exec_getV_of_not_writesV {i : Instr} {s t : State} {r : Reg} (h : exec i s = .next t) (hr : writesV i r = false) :
    t.getV r = s.getV r := by
  cases i with
  | ldVxKK | addVxKK | rnd | ldVxDT | ldVxVy | or | and | xor | drw =>
    cases h
    exact (State.getV_setV ..).trans (if_neg (ne_of_beq_false hr))
  | addVxVy x | sub x | subn x =>
    cases h
    obtain ⟨hx, hf⟩ := Bool.or_eq_false_iff.mp hr
    rw [State.getV_resultThenFlag, if_neg (ne_of_beq_false hf), if_neg (ne_of_beq_false hx)]
  | shr x | shl x =>
    cases h
    obtain ⟨hx, hf⟩ := Bool.or_eq_false_iff.mp hr
    rw [State.getV_flagThenResult, if_neg (ne_of_beq_false hx), if_neg (ne_of_beq_false hf)]
  | ldVxMem x =>
    cases h
    rw [State.getV_loadRegs s (blockLength_le x), if_neg]
    exact fun hlt => of_decide_eq_false hr (Nat.le_of_lt_succ hlt)
  | seVxKK | sneVxKK | seVxVy | sneVxVy | skp | sknp =>
    cases h
    exact State.getV_congr (State.skipIf_v ..) r
  | call =>
    rw [exec_call] at h
    cases h
    split
    · exact State.getV_congr (State.push_v ..) r
    · rfl
  | ret =>
    cases h
    exact State.getV_congr (State.popPc_v s) r
  | ldMemVx =>
    cases h
    exact State.getV_congr (State.storeRegs_v ..) r
  | cls | jp | jpV0 | ldI | addIVx | ldFVx | ldDTVx | ldSTVx | ldVxK | ldBVx =>
    cases h
    rfl

/-- Settles O50, by `exec_getV_of_not_writesV`. -/
theorem registersWrittenAsTabled : Obligations.RegistersWrittenAsTabled :=
  fun _ _ _ _ => exec_getV_of_not_writesV

/-! ## The ports of the latch -/

/-- Settles O57: both ports are functions of the latch alone. -/
theorem waitPortsShowLatch : Obligations.WaitPortsShowLatch := by
  intro s
  unfold State.waiting State.waitReg
  cases s.latch with
  | none => simp
  | some x => simp

/-! ## Two states that differ in V -/

/-- The state with the register file `w`. -/
def State.withV (s : State) (w : Vector Byte 16) : State := { s with v := w }

theorem State.withV_setPc (s : State) (w : Vector Byte 16) (a : Word) :
    (s.withV w).setPc a = (s.setPc a).withV w := rfl

theorem State.withV_skipIf (s : State) (w : Vector Byte 16) (c : Bool) :
    (s.withV w).skipIf c = (s.skipIf c).withV w := by
  cases c <;> rfl

theorem State.withV_push (s : State) (w : Vector Byte 16) (a : Word) : (s.withV w).push a = (s.push a).withV w := by
  by_cases hroom : s.sp.val < 16
  · rw [State.push_of_lt hroom, State.push_of_lt (s := s.withV w) hroom]; rfl
  · rw [State.push_of_full hroom, State.push_of_full (s := s.withV w) hroom]

theorem State.withV_popPc (s : State) (w : Vector Byte 16) : (s.withV w).popPc = s.popPc.withV w := by
  by_cases hempty : s.sp.val = 0
  · rw [State.popPc_of_zero hempty, State.popPc_of_zero (s := s.withV w) hempty]
  · rw [State.popPc_of_pos hempty, State.popPc_of_pos (s := s.withV w) hempty]; rfl

/-- A block store of registers that hold the same values is the same store. -/
theorem State.withV_storeRegs (s : State) (w : Vector Byte 16) {k : Nat}
    (h : ∀ j < k, (s.withV w).getV (BitVec.ofNat 4 j) = s.getV (BitVec.ofNat 4 j)) :
    (s.withV w).storeRegs k = (s.storeRegs k).withV w := by
  induction k with
  | zero => rfl
  | succ k ih =>
    rw [State.storeRegs, ih fun j hj => h j (by omega), h k (Nat.lt_succ_self k)]
    rfl

/-- The registers an instruction writes take the same values in both states, and nothing else but V differs. -/
def AgreesOn (written : Reg → Bool) (t t' : State) : Prop :=
  ChangesOnlyV t t' ∧ ∀ r, written r = true → t'.getV r = t.getV r

/-- States that differ in V alone agree where nothing was written. -/
theorem State.agreesOn_withV (t : State) (w : Vector Byte 16) {written : Reg → Bool} (h : ∀ r, written r = false) :
    AgreesOn written t (t.withV w) :=
  ⟨rfl, fun r hr => absurd hr (by simp [h])⟩

/-- One register written with one value, in two states that differ in V alone. -/
theorem State.agreesOn_setV (t : State) (w : Vector Byte 16) (x : Reg) (b : Byte) :
    AgreesOn (· == x) (t.setV x b) ((t.withV w).setV x b) :=
  ⟨rfl, fun r hr => by rw [eq_of_beq hr, State.getV_setV_same, State.getV_setV_same]⟩

theorem State.agreesOn_resultThenFlag (t : State) (w : Vector Byte 16) (x : Reg) (result flag : Byte) :
    AgreesOn (fun r => r == x || r == regF) (t.resultThenFlag x result flag)
      ((t.withV w).resultThenFlag x result flag) := by
  refine ⟨rfl, fun r hr => ?_⟩
  rw [State.getV_resultThenFlag, State.getV_resultThenFlag]
  by_cases hf : r = regF
  · rw [if_pos hf, if_pos hf]
  · have hx : r = x := by simpa [hf] using hr
    rw [if_neg hf, if_neg hf, if_pos hx, if_pos hx]

theorem State.agreesOn_flagThenResult (t : State) (w : Vector Byte 16) (x : Reg) (result flag : Byte) :
    AgreesOn (fun r => r == x || r == regF) (t.flagThenResult x result flag)
      ((t.withV w).flagThenResult x result flag) := by
  refine ⟨rfl, fun r hr => ?_⟩
  rw [State.getV_flagThenResult, State.getV_flagThenResult]
  by_cases hx : r = x
  · rw [if_pos hx, if_pos hx]
  · have hf : r = regF := by simpa [hx] using hr
    rw [if_neg hx, if_neg hx, if_pos hf, if_pos hf]

theorem State.agreesOn_loadRegs (t : State) (w : Vector Byte 16) (x : Reg) :
    AgreesOn (fun r => decide (r.toNat ≤ x.toNat)) (t.loadRegs (blockLength x))
      ((t.withV w).loadRegs (blockLength x)) := by
  refine ⟨?_, fun r hr => ?_⟩
  · rw [State.loadRegs_frame t, State.loadRegs_frame (t.withV w)]; rfl
  · have hlt : r.toNat < blockLength x := Nat.lt_succ_of_le (of_decide_eq_true hr)
    rw [State.getV_loadRegs _ (blockLength_le x), State.getV_loadRegs _ (blockLength_le x), if_pos hlt, if_pos hlt]
    rfl

/-- What an instruction does depends on the registers of the column "reads V" of 10_state.md R22 alone. -/
theorem exec_withV {i : Instr} {s t t' : State} {w : Vector Byte 16}
    (hread : ∀ r, readsV i r = true → (s.withV w).getV r = s.getV r) (h : exec i s = .next t)
    (h' : exec i (s.withV w) = .next t') : AgreesOn (writesV i) t t' := by
  cases i with
  | cls | jp | ldI | ldVxK =>
    cases h; cases h'
    exact State.agreesOn_withV _ w fun _ => rfl
  | ret =>
    cases h; cases h'
    rw [State.withV_popPc]
    exact State.agreesOn_withV _ w fun _ => rfl
  | call nnn =>
    rw [exec_call] at h h'
    cases h; cases h'
    rw [State.withV_push, State.withV_setPc, ← apply_ite (State.withV · w)]
    exact State.agreesOn_withV _ w fun _ => rfl
  | jpV0 =>
    cases h; cases h'
    rw [hread 0 rfl]
    exact State.agreesOn_withV _ w fun _ => rfl
  | seVxKK x | sneVxKK x | skp x | sknp x =>
    cases h; cases h'
    rw [hread x (beq_self_eq_true x), State.withV_skipIf]
    exact State.agreesOn_withV _ w fun _ => rfl
  | seVxVy x y | sneVxVy x y =>
    cases h; cases h'
    rw [hread x (by simp [readsV]), hread y (by simp [readsV]), State.withV_skipIf]
    exact State.agreesOn_withV _ w fun _ => rfl
  | addIVx x | ldFVx x | ldDTVx x | ldSTVx x | ldBVx x =>
    cases h; cases h'
    rw [hread x (beq_self_eq_true x)]
    exact State.agreesOn_withV _ w fun _ => rfl
  | ldMemVx x =>
    cases h; cases h'
    rw [State.withV_storeRegs]
    · exact State.agreesOn_withV _ w fun _ => rfl
    · intro j hj
      refine hread _ (decide_eq_true ?_)
      rw [BitVec.toNat_ofNat]
      exact (Nat.mod_le ..).trans (Nat.le_of_lt_succ hj)
  | ldVxKK | rnd | ldVxDT =>
    cases h; cases h'
    exact State.agreesOn_setV ..
  | addVxKK x =>
    cases h; cases h'
    rw [hread x (beq_self_eq_true x)]
    exact State.agreesOn_setV ..
  | ldVxVy _ y =>
    cases h; cases h'
    rw [hread y (beq_self_eq_true y)]
    exact State.agreesOn_setV ..
  | or x y | and x y | xor x y =>
    cases h; cases h'
    rw [hread x (by simp [readsV]), hread y (by simp [readsV])]
    exact State.agreesOn_setV ..
  | addVxVy x y | sub x y | subn x y =>
    cases h; cases h'
    rw [hread x (by simp [readsV]), hread y (by simp [readsV])]
    exact State.agreesOn_resultThenFlag ..
  | shr x | shl x =>
    cases h; cases h'
    rw [hread x (beq_self_eq_true x)]
    exact State.agreesOn_flagThenResult ..
  | drw x y n =>
    cases h; cases h'
    rw [hread x (by simp [readsV]), hread y (by simp [readsV])]
    exact State.agreesOn_setV ..
  | ldVxMem x =>
    cases h; cases h'
    exact State.agreesOn_loadRegs s w x

/-- Settles O52: the second state is the first with another register file, so `exec_withV` applies. -/
theorem resultsDependOnReadRegistersOnly : Obligations.ResultsDependOnReadRegistersOnly := by
  intro i s s' t t' hs hread h h'
  have hw : s' = s.withV s'.v := hs
  rw [hw] at hread h'
  exact exec_withV hread h h'

/-! ## Timers -/

theorem countDown_le (b : Byte) : (countDown b).toNat ≤ b.toNat := by
  unfold countDown
  split <;> bv_omega

theorem countDown_lt {b : Byte} (h : 0 < b.toNat) : (countDown b).toNat < b.toNat := by
  unfold countDown
  split <;> bv_omega

theorem eq_ldDTVx_of_mayWrite {i : Instr} (h : mayWrite i .dt = true) : ∃ x, i = .ldDTVx x := by
  cases i with
  | ldDTVx x => exact ⟨x, rfl⟩
  | _ => cases h

theorem eq_ldSTVx_of_mayWrite {i : Instr} (h : mayWrite i .st = true) : ∃ x, i = .ldSTVx x := by
  cases i with
  | ldSTVx x => exact ⟨x, rfl⟩
  | _ => cases h

/-- Among the instructions only LD DT, Vx changes DT (10_state.md R31). -/
theorem exec_dt_eq_or_load {i : Instr} {s t : State} (h : exec i s = .next t) :
    t.dt = s.dt ∨ ∃ x, i = .ldDTVx x := by
  by_cases hw : mayWrite i .dt = true
  · exact .inr (eq_ldDTVx_of_mayWrite hw)
  · exact .inl ((exec_dt h).trans (if_neg hw))

/-- Among the instructions only LD ST, Vx changes ST (10_state.md R31). -/
theorem exec_st_eq_or_load {i : Instr} {s t : State} (h : exec i s = .next t) :
    t.st = s.st ∨ ∃ x, i = .ldSTVx x := by
  by_cases hw : mayWrite i .st = true
  · exact .inr (eq_ldSTVx_of_mayWrite hw)
  · exact .inl ((exec_st h).trans (if_neg hw))

theorem State.loadCommand_timers (s : State) (data : List Byte) :
    (s.loadCommand data).dt = s.dt ∧ (s.loadCommand data).st = s.st := by
  unfold State.loadCommand
  split
  · exact ⟨rfl, rfl⟩
  · rw [State.writeBytes_frame]; exact ⟨rfl, rfl⟩

theorem State.keyCommand_timers (s : State) (k : Nibble) :
    (s.keyCommand k).dt = s.dt ∧ (s.keyCommand k).st = s.st := by
  unfold State.keyCommand
  split <;> exact ⟨rfl, rfl⟩

theorem State.sample_timers (s : State) (g : Option Inputs) (i : Instr) :
    (s.sample g i).dt = s.dt ∧ (s.sample g i).st = s.st := by
  rw [State.sample_frame]
  exact ⟨rfl, rfl⟩

/-- Everything one step can do to the timers (10_state.md R31): RESET clears both, TICK counts both down, and any other
command leaves each as it is but for a STEP of its own load. -/
theorem step_timers {s t : State} (h : step s = .next t) :
    (s.env.nextCommand = .reset ∧ t.dt = 0 ∧ t.st = 0) ∨
    (s.env.nextCommand = .tick ∧ t.dt = countDown s.dt ∧ t.st = countDown s.st) ∨
    (s.env.nextCommand ≠ .reset ∧ s.env.nextCommand ≠ .tick ∧
      (t.dt = s.dt ∨ ∃ g x, s.Executes g (.ldDTVx x)) ∧ (t.st = s.st ∨ ∃ g x, s.Executes g (.ldSTVx x))) := by
  obtain ⟨hc, e⟩ | ⟨data, hc, e⟩ | ⟨hc, e⟩ | ⟨k, hc, e⟩ | ⟨g, x, hc, -, e⟩ | ⟨g, w, hc, -, -, e⟩ | ⟨g, i, hc, hl, hd, e⟩ :=
    step_cases s <;> rw [e] at h <;> rw [hc]
  · cases h
    exact .inl ⟨rfl, rfl, rfl⟩
  · cases h
    obtain ⟨hdt, hst⟩ := (s.setEnv s.env.issued).loadCommand_timers data
    exact .inr (.inr ⟨nofun, nofun, .inl hdt, .inl hst⟩)
  · cases h
    exact .inr (.inl ⟨rfl, rfl, rfl⟩)
  · cases h
    obtain ⟨hdt, hst⟩ := (s.setEnv s.env.issued).keyCommand_timers k
    exact .inr (.inr ⟨nofun, nofun, .inl hdt, .inl hst⟩)
  · cases h
    exact .inr (.inr ⟨nofun, nofun, .inl rfl, .inl rfl⟩)
  · cases h
    exact .inr (.inr ⟨nofun, nofun, .inl rfl, .inl rfl⟩)
  · obtain ⟨hdt, hst⟩ := (s.setEnv s.env.issued).sample_timers g i
    refine .inr (.inr ⟨nofun, nofun, ?_, ?_⟩)
    · refine (exec_dt_eq_or_load h).imp (·.trans hdt) ?_
      rintro ⟨x, rfl⟩
      exact ⟨g, x, ⟨hc, hl⟩, hd⟩
    · refine (exec_st_eq_or_load h).imp (·.trans hst) ?_
      rintro ⟨x, rfl⟩
      exact ⟨g, x, ⟨hc, hl⟩, hd⟩

/-- Settles O55, from the three things a step can do to the timers. -/
theorem timersChangeOnlyByLoadsAndTicks : Obligations.TimersChangeOnlyByLoadsAndTicks := by
  intro s t h
  obtain ⟨hc, hdt, hst⟩ | ⟨hc, hdt, hst⟩ | ⟨hreset, htick, hdt, hst⟩ := step_timers h
  · rw [hc, hdt, hst]
    exact ⟨fun hlt => absurd hlt (Nat.not_lt_zero _), fun hlt => absurd hlt (Nat.not_lt_zero _), fun _ => .inr (.inl rfl),
      fun _ => .inr (.inl rfl), nofun, fun _ => ⟨rfl, rfl⟩⟩
  · rw [hc, hdt, hst]
    exact ⟨fun hlt => absurd (countDown_le s.dt) (Nat.not_le_of_lt hlt),
      fun hlt => absurd (countDown_le s.st) (Nat.not_le_of_lt hlt), fun _ => .inl rfl, fun _ => .inl rfl,
      fun _ => ⟨countDown_lt, countDown_lt⟩, nofun⟩
  · refine ⟨fun hlt => hdt.resolve_left ?_, fun hlt => hst.resolve_left ?_, fun hne => .inr (.inr (hdt.resolve_left hne)),
      fun hne => .inr (.inr (hst.resolve_left hne)), fun hc => absurd hc htick, fun hc => absurd hc hreset⟩
    · exact fun heq => absurd (heq ▸ hlt) (Nat.lt_irrefl _)
    · exact fun heq => absurd (heq ▸ hlt) (Nat.lt_irrefl _)

/-! ## Reports -/

@[simp] theorem Outputs.quiet_audioValid (o : Outputs) : o.quiet.audioValid = false := rfl
@[simp] theorem Outputs.quiet_decodeMiss (o : Outputs) : o.quiet.decodeMiss = false := rfl

theorem State.loadCommand_out (s : State) (data : List Byte) :
    (s.loadCommand data).out = { s.out.quiet with loadOk := decide (data.length ≤ 3584) } := by
  unfold State.loadCommand
  split
  · next hlong => simp [hlong]
  · next hfits => simp [Nat.le_of_not_lt hfits]

theorem State.keyCommand_out (s : State) (k : Nibble) : (s.keyCommand k).out = s.out.quiet := by
  unfold State.keyCommand
  split <;> rfl

theorem decodeXY0_unknown {ins : Reg → Reg → Instr} {w u : Word} (h : decodeXY0 ins w = .unknown u) : u = w := by
  unfold decodeXY0 at h
  split at h <;> cases h
  rfl

theorem decodeFamily0_unknown {w u : Word} (h : decodeFamily0 w = .unknown u) : u = w := by
  unfold decodeFamily0 at h
  split at h <;> cases h
  rfl

theorem decodeFamily8_unknown {w u : Word} (h : decodeFamily8 w = .unknown u) : u = w := by
  unfold decodeFamily8 at h
  split at h <;> cases h
  rfl

theorem decodeFamilyE_unknown {w u : Word} (h : decodeFamilyE w = .unknown u) : u = w := by
  unfold decodeFamilyE at h
  split at h <;> cases h
  rfl

theorem decodeFamilyF_unknown {w u : Word} (h : decodeFamilyF w = .unknown u) : u = w := by
  unfold decodeFamilyF at h
  split at h <;> cases h
  rfl

/-- UNKNOWN carries the whole word (30_encoding.md R78). -/
theorem decode_unknown {w u : Word} (h : decode w = .unknown u) : u = w := by
  unfold decode at h
  split at h
  case h_1 => exact decodeFamily0_unknown h
  case h_6 | h_10 => exact decodeXY0_unknown h
  case h_9 => exact decodeFamily8_unknown h
  case h_15 => exact decodeFamilyE_unknown h
  case h_16 => exact decodeFamilyF_unknown h
  all_goals cases h
  rfl

/-- Everything one step can do to audio_valid and decode_miss (10_state.md R43, R44): a TICK raises the first, a STEP of an
UNKNOWN word raises the second and reports the word, and anything else clears both. -/
theorem step_reports {s t : State} (h : step s = .next t) :
    (s.env.nextCommand = .tick ∧ t.out.audioValid = true ∧ t.out.decodeMiss = false) ∨
    ((∃ g, s.StepsNext g ∧ decode s.fetch = .unknown s.fetch) ∧ t.out.audioValid = false ∧ t.out.decodeMiss = true ∧
      t.out.missWord = s.fetch) ∨
    (s.env.nextCommand ≠ .tick ∧ (¬∃ g, s.StepsNext g ∧ decode s.fetch = .unknown s.fetch) ∧
      t.out.audioValid = false ∧ t.out.decodeMiss = false) := by
  obtain ⟨hc, e⟩ | ⟨data, hc, e⟩ | ⟨hc, e⟩ | ⟨k, hc, e⟩ | ⟨g, x, hc, hl, e⟩ | ⟨g, w, hc, hl, hd, e⟩ |
    ⟨g, i, hc, hl, hd, e⟩ := step_cases s <;> rw [e] at h
  · cases h
    exact .inr (.inr ⟨by simp [hc], by simp [State.StepsNext, hc], rfl, rfl⟩)
  · cases h
    exact .inr (.inr ⟨by simp [hc], by simp [State.StepsNext, hc], by simp [State.loadCommand_out],
      by simp [State.loadCommand_out]⟩)
  · cases h
    exact .inl ⟨hc, rfl, rfl⟩
  · cases h
    exact .inr (.inr ⟨by simp [hc], by simp [State.StepsNext, hc], by simp [State.keyCommand_out],
      by simp [State.keyCommand_out]⟩)
  · cases h
    exact .inr (.inr ⟨by simp [hc], by simp [State.StepsNext, hl], rfl, rfl⟩)
  · cases h
    obtain rfl := decode_unknown hd
    exact .inr (.inl ⟨⟨g, ⟨hc, hl⟩, hd⟩, rfl, rfl, rfl⟩)
  · refine .inr (.inr ⟨by simp [hc], by simp [hd], ?_, ?_⟩) <;> rw [exec_out h] <;> rfl

/-- Settles O56, from the three things a step can do to the reports. -/
theorem reportsFollowCommands : Obligations.ReportsFollowCommands := by
  intro s t h
  obtain ⟨hc, haudio, hmiss⟩ | ⟨hunknown, haudio, hmiss, hword⟩ | ⟨hc, hknown, haudio, hmiss⟩ := step_reports h
  · simp [haudio, hmiss, hc, State.StepsNext]
  · have ⟨g, ⟨hc, _⟩, _⟩ := hunknown
    exact ⟨by simp [haudio, hc], by simp [hmiss, hunknown], fun _ => hword⟩
  · exact ⟨by simp [haudio, hc], by rw [hmiss]; exact ⟨nofun, fun hu => absurd hu hknown⟩, by simp [hmiss]⟩

end Sys2Proof.Machine

/-! The proofs of the statements about memory (20_memory.md): first what reads, fetches, stores and instructions do to
memory, then each statement from these rules. -/

namespace Sys2Proof.Machine

/-! ## Reads and the fetch -/

/-- A read sees its address modulo 4096 only (20_memory.md R52). -/
theorem State.readByte_of_maskAddress_eq (s : State) {a b : Nat} (h : maskAddress a = maskAddress b) :
    s.readByte a = s.readByte b := by
  rw [State.readByte, State.readByte, h]

@[simp] theorem State.readByte_maskAddress (s : State) (a : Nat) : s.readByte (maskAddress a) = s.readByte a :=
  s.readByte_of_maskAddress_eq (maskAddress_idem a)

theorem bytesWord_toNat (first second : Byte) : (bytesWord first second).toNat = 256 * first.toNat + second.toNat := by
  have hshift := Nat.shiftLeft_add_eq_or_of_lt second.isLt first.toNat
  rw [bytesWord, BitVec.toNat_append, ← hshift, Nat.shiftLeft_eq]
  omega

/-- Settles O9: the first byte of the word is the high one, and reading masks the second byte's address. -/
theorem fetchIsBigEndian : Obligations.FetchIsBigEndian := by
  intro s
  have hsecond : s.readByte ((s.pc.toNat + 1) % 4096) = s.readByte (s.pc.toNat + 1) := s.readByte_maskAddress _
  rw [hsecond]
  exact bytesWord_toNat _ _

/-! ## Canonical memories -/

/-- What a canonical memory lists is what reads see: the addresses that do not read as their unlisted byte. -/
theorem Memory.mem_iff_read {f : Font} {m : Memory} (h : Memory.wf f m) (p : Host.Cell) :
    p ∈ m ↔ Memory.read f m p.1 = p.2 ∧ p.2 ≠ Memory.unlisted f p.1 := by
  induction m with
  | nil => simpa [Memory.read] using Eq.symm
  | cons q m ih =>
    have hlow : ∀ r ∈ m, q.1 < r.1 := (List.pairwise_cons.mp h.1).1
    have hlisted : q.2 ≠ Memory.unlisted f q.1 := (h.2 q (List.mem_cons_self ..)).2
    rw [List.mem_cons]
    by_cases hhead : p.1 = q.1
    · have htail : p ∉ m := fun hp => (hlow p hp).ne' hhead
      rw [Memory.read, if_pos hhead, hhead, or_iff_left htail, Prod.ext_iff, and_iff_right hhead]
      exact ⟨fun e => ⟨e.symm, e ▸ hlisted⟩, fun e => e.1.symm⟩
    · rw [Memory.read, if_neg hhead, or_iff_right (mt (congrArg Prod.fst) hhead)]
      exact ih (Memory.wf_tail h)

/-- Settles O14: both lists rise strictly and, by `Memory.mem_iff_read`, hold the same entries. -/
theorem canonicalMemoriesAreEqual : Obligations.CanonicalMemoriesAreEqual := by
  intro font m m' hm hm' hread
  have hmem : ∀ p, p ∈ m ↔ p ∈ m' := fun p => by
    rw [Memory.mem_iff_read hm, Memory.mem_iff_read hm', hread]
  exact List.Pairwise.eq_of_mem_iff (r := InvImage (· < ·) Prod.fst) hm.1 hm'.1 hmem

/-! ## A word placed at PC -/

/-- Consecutive addresses differ, modulo 4096 too. -/
theorem maskAddress_ne_succ (a : Nat) : maskAddress a ≠ maskAddress (a + 1) := by
  unfold maskAddress; omega

/-- What placing a word does, as reads see it. -/
theorem State.readByte_placeWord {s : State} (h : Memory.wf s.font s.mem) (w : Word) (a : Nat) :
    (s.placeWord w).readByte a =
      if maskAddress a = maskAddress (s.pc.toNat + 1) then (wordBytes w).2
      else if maskAddress a = maskAddress s.pc.toNat then (wordBytes w).1
      else s.readByte a := by
  have hfirst := State.writeByte_wf h s.pc.toNat (wordBytes w).1
  rw [← State.readByte_writeByte h]
  exact State.readByte_writeByte (s := s.writeByte s.pc.toNat (wordBytes w).1) hfirst ..

/-- A placed word is the one fetched (20_memory.md R55, R61). -/
theorem State.fetch_placeWord {s : State} (h : Memory.wf s.font s.mem) (w : Word) : (s.placeWord w).fetch = w := by
  have hpc : (s.placeWord w).pc = s.pc := rfl
  rw [State.fetch, hpc, State.readByte_placeWord h, State.readByte_placeWord h, if_neg (maskAddress_ne_succ _),
    if_pos rfl, if_pos rfl, bytesWord_wordBytes]

/-- After a word is placed, the environment issues a STEP with free inputs and the FSM is in RUN. -/
theorem step_placeWord (s : State) (w : Word) : step (s.placeWord w) = (s.placeWord w).stepCommand none := rfl

@[simp] theorem tableWord_toNat (w : Word) : tableWord 16 w.toNat = w := by
  rw [tableWord, Nat.mod_eq_of_lt w.isLt, BitVec.ofNat_toNat, BitVec.setWidth_eq]

/-- Settles O10: the fetch gives the placed word, so the STEP is the one of the instruction it decodes to. -/
theorem placedWordIsExecuted : Obligations.PlacedWordIsExecuted := by
  intro s w i hwf hdecode
  have hfetch : (s.placeWord w).fetch = w := State.fetch_placeWord hwf w
  refine ⟨s.placeWord w, by rw [State.withFetchWord, tableWord_toNat], hfetch, ?_, rfl, fun a hfirst hsecond => ?_⟩
  · rw [step_placeWord, State.stepCommand_instr rfl (hfetch.symm ▸ hdecode), hfetch]
  · exact (State.readByte_placeWord hwf w a).trans ((if_neg hsecond).trans (if_neg hfirst))

/-! ## Stores -/

/-- LD [I], Vx puts register k, up to x, at EA(k) (42_index_memory.md R164). -/
theorem State.readByte_storeRegs_blockLength {s : State} (h : Memory.wf s.font s.mem) {x k : Reg}
    (hk : k.toNat ≤ x.toNat) {a : Nat} (ha : maskAddress a = s.effectiveAddress k.toNat) :
    (s.storeRegs (blockLength x)).readByte a = s.getV k := by
  have hstored := (State.readByte_storeRegs h (blockLength_le x)).1 k.toNat (Nat.lt_succ_of_le hk)
  rw [← State.readByte_maskAddress, ha, hstored, BitVec.ofNat_toNat, BitVec.setWidth_eq]

/-- The next byte of memory is at the next data address, both modulo 4096 (42_index_memory.md R166). -/
theorem State.maskAddress_succ {s : State} {a k : Nat} (h : maskAddress a = s.effectiveAddress k) :
    maskAddress (a + 1) = s.effectiveAddress (k + 1) := by
  unfold State.effectiveAddress maskAddress at *; omega

/-- Settles O15: the bytes at PC and PC + 1 are EA(k) and EA(k + 1), where the store put the two registers. -/
theorem selfModifyingStoreIsFetched : Obligations.SelfModifyingStoreIsFetched := by
  intro s x k k' hwf hsucc hle hpc
  have hfirst : (s.storeRegs (blockLength x)).readByte s.pc.toNat = s.getV k :=
    State.readByte_storeRegs_blockLength hwf (by omega) hpc
  have hsecond : (s.storeRegs (blockLength x)).readByte (s.pc.toNat + 1) = s.getV k' :=
    State.readByte_storeRegs_blockLength hwf hle (hsucc ▸ State.maskAddress_succ hpc)
  refine ⟨s.storeRegs (blockLength x), rfl, ?_⟩
  have hpcKept : (s.storeRegs (blockLength x)).pc = s.pc := by rw [State.storeRegs_frame]
  rw [State.fetch, hpcKept, hfirst, hsecond, bytesWord]

/-! ## What changes memory -/

@[simp] theorem State.maskAddress_effectiveAddress (s : State) (k : Nat) :
    maskAddress (s.effectiveAddress k) = s.effectiveAddress k :=
  maskAddress_idem _

/-- A byte store leaves every other address (20_memory.md R53). -/
theorem State.readByte_writeByte_of_ne {s : State} (h : Memory.wf s.font s.mem) {a b : Nat} (x : Byte)
    (hne : maskAddress a ≠ maskAddress b) : (s.writeByte b x).readByte a = s.readByte a :=
  (State.readByte_writeByte h b a x).trans (if_neg hne)

/-- A byte that a block store changes is at one of its data addresses. -/
theorem State.exists_effectiveAddress_of_storeRegs_ne {s : State} (h : Memory.wf s.font s.mem) {n a : Nat} (hn : n ≤ 16)
    (hne : (s.storeRegs n).readByte a ≠ s.readByte a) : ∃ k < n, maskAddress a = s.effectiveAddress k := by
  by_contra! hother
  exact hne ((State.readByte_storeRegs h hn).2 a hother)

/-- A byte that LD B, Vx changes is at EA(0), EA(1) or EA(2) (42_index_memory.md R163). -/
theorem exists_effectiveAddress_of_execLdBVx_ne {x : Reg} {s t : State} (h : exec (.ldBVx x) s = .next t)
    (hwf : Memory.wf s.font s.mem) {a : Nat} (hne : t.readByte a ≠ s.readByte a) :
    ∃ k < 3, maskAddress a = s.effectiveAddress k := by
  by_contra! hother
  have hmask : ∀ k < 3, maskAddress a ≠ maskAddress (s.effectiveAddress k) := fun k hk => by
    rw [State.maskAddress_effectiveAddress]
    exact hother k hk
  have hwf₁ := State.writeByte_wf hwf (s.effectiveAddress 0) (hundredsDigit (s.getV x))
  have hwf₂ := State.writeByte_wf (s := s.writeByte ..) hwf₁ (s.effectiveAddress 1) (tensDigit (s.getV x))
  cases h
  refine hne ?_
  calc
    _ = _ := State.readByte_writeByte_of_ne (s := (s.writeByte ..).writeByte ..) hwf₂ _ (hmask 2 (by decide))
    _ = _ := State.readByte_writeByte_of_ne (s := s.writeByte ..) hwf₁ _ (hmask 1 (by decide))
    _ = _ := State.readByte_writeByte_of_ne hwf _ (hmask 0 (by decide))

/-- Among the instructions only LD B, Vx and LD [I], Vx change memory, at their data addresses (20_memory.md R53). -/
theorem exec_store_of_readByte_ne {i : Instr} {s t : State} (h : exec i s = .next t) (hwf : Memory.wf s.font s.mem)
    {a : Nat} (hne : t.readByte a ≠ s.readByte a) :
    ∃ x k, (i = .ldBVx x ∧ k < 3 ∨ i = .ldMemVx x ∧ k ≤ x.toNat) ∧ maskAddress a = s.effectiveAddress k := by
  cases i with
  | ldBVx x =>
    obtain ⟨k, hk, ha⟩ := exists_effectiveAddress_of_execLdBVx_ne h hwf hne
    exact ⟨x, k, .inl ⟨rfl, hk⟩, ha⟩
  | ldMemVx x =>
    cases h
    obtain ⟨k, hk, ha⟩ := State.exists_effectiveAddress_of_storeRegs_ne hwf (blockLength_le x) hne
    exact ⟨x, k, .inr ⟨rfl, Nat.le_of_lt_succ hk⟩, ha⟩
  | _ => exact absurd ((componentsWrittenAsTabled _ s t .mem h).1 rfl a) hne

/-- A LOAD leaves every byte below PROG_BASE (70_reset_and_hazards.md R242). -/
theorem State.readByte_loadCommand_of_lt {s : State} (h : Memory.wf s.font s.mem) (data : List Byte) {a : Nat}
    (ha : maskAddress a < 0x200) : (s.loadCommand data).readByte a = s.readByte a := by
  unfold State.loadCommand
  split
  · rfl
  · next hfits =>
    have hread := State.readByte_writeBytes data h (a := 0x200) (by omega) (maskAddress_lt a)
    rwa [if_neg (by omega), State.readByte_maskAddress, State.readByte_maskAddress] at hread

theorem State.readByte_keyCommand (s : State) (k : Nibble) (a : Nat) :
    (s.keyCommand k).readByte a = s.readByte a := by
  unfold State.keyCommand
  split <;> rfl

/-- Settles O60: RESET and LOAD by their own clauses, a STEP by `exec_store_of_readByte_ne` from the advanced PC; every
other command leaves memory. -/
theorem memoryChangesOnlyByStoresAndLoads : Obligations.MemoryChangesOnlyByStoresAndLoads := by
  intro s t hwf h a hne
  obtain ⟨hc, e⟩ | ⟨data, hc, e⟩ | ⟨-, e⟩ | ⟨k, -, e⟩ | ⟨g, x, -, -, e⟩ | ⟨g, w, -, -, -, e⟩ | ⟨g, i, hc, hl, hd, e⟩ :=
    step_cases s <;> rw [e] at h
  · exact .inl hc
  · cases h
    refine .inr (.inl ⟨data, hc, ?_⟩)
    by_contra! hlow
    exact hne (State.readByte_loadCommand_of_lt (s := s.setEnv s.env.issued) hwf data hlow)
  · cases h
    exact absurd rfl hne
  · cases h
    exact absurd (State.readByte_keyCommand ..) hne
  · cases h
    exact absurd rfl hne
  · cases h
    exact absurd rfl hne
  · rw [State.sample_frame] at h
    obtain ⟨x, k, hi, ha⟩ := exec_store_of_readByte_ne h hwf hne
    refine .inr (.inr ⟨g, x, k, hi.imp ?_ ?_, ha⟩)
    · rintro ⟨rfl, hk⟩
      exact ⟨⟨⟨hc, hl⟩, hd⟩, hk⟩
    · rintro ⟨rfl, hk⟩
      exact ⟨⟨⟨hc, hl⟩, hd⟩, hk⟩

end Sys2Proof.Machine

/-! The proofs of the statements about the encoding (30_encoding.md): the two round trips between decoder and encoder, then
the opcode table and the UNKNOWN space from them. -/

namespace Sys2Proof.Machine

/-! ## The decoder inverts the encoder -/

/-- Every instruction decodes from its own word: the decoder reads back the fields each format encodes (R71, R78). -/
theorem decode_encode (i : Instr) : decode (encode i) = .instr i := by
  cases i with
  | cls | ret => rfl
  | jp | call | ldI | jpV0 => simp [encode, decode, fieldFamily_encodeNNN, fieldNNN_encodeNNN]
  | seVxKK | sneVxKK | ldVxKK | addVxKK | rnd =>
    simp [encode, decode, fieldFamily_encodeXKK, fieldX_encodeXKK, fieldKK_encodeXKK]
  | drw => simp [encode, decode, fieldFamily_encodeXYN, fieldX_encodeXYN, fieldY_encodeXYN, fieldN_encodeXYN]
  | seVxVy | sneVxVy =>
    simp [encode, decode, decodeXY0, fieldFamily_encodeXYN, fieldX_encodeXYN, fieldY_encodeXYN, fieldN_encodeXYN]
  | ldVxVy | or | and | xor | addVxVy | sub | shr | subn | shl =>
    simp [encode, decode, decodeFamily8, fieldFamily_encodeXYN, fieldX_encodeXYN, fieldY_encodeXYN, fieldN_encodeXYN]
  | skp | sknp =>
    simp [encode, decode, decodeFamilyE, fieldFamily_encodeXKK, fieldX_encodeXKK, fieldKK_encodeXKK]
  | ldVxDT | ldVxK | ldDTVx | ldSTVx | addIVx | ldFVx | ldBVx | ldMemVx | ldVxMem =>
    simp [encode, decode, decodeFamilyF, fieldFamily_encodeXKK, fieldX_encodeXKK, fieldKK_encodeXKK]

/-- Settles O2, format by format: each constructor's word has the fields it was built from. -/
theorem decodeInvertsEncode : Obligations.DecodeInvertsEncode := decode_encode

/-! ## The encoder inverts the decoder -/

section
variable {w : Word} {f : Nibble}

theorem encodeNNN_of_family (hf : fieldFamily w = f) : encodeNNN f (fieldNNN w) = w := by
  rw [← hf, encodeNNN_fields]

theorem encodeXKK_of_fields {k : Byte} (hf : fieldFamily w = f) (hk : fieldKK w = k) :
    encodeXKK f (fieldX w) k = w := by
  rw [← hf, ← hk, encodeXKK_fields]

theorem encodeXYN_of_fields {n : Nibble} (hf : fieldFamily w = f) (hn : fieldN w = n) :
    encodeXYN f (fieldX w) (fieldY w) n = w := by
  rw [← hf, ← hn, encodeXYN_fields]

end

section
variable {w : Word} {i : Instr}

theorem encode_of_decodeFamily0 (h : decodeFamily0 w = .instr i) : encode i = w := by
  unfold decodeFamily0 at h
  split at h <;> cases h <;> rfl

theorem encode_of_decodeFamily8 (hf : fieldFamily w = 0x8) (h : decodeFamily8 w = .instr i) : encode i = w := by
  unfold decodeFamily8 at h
  split at h <;> cases h <;> exact encodeXYN_of_fields hf ‹_›

theorem encode_of_decodeFamilyE (hf : fieldFamily w = 0xE) (h : decodeFamilyE w = .instr i) : encode i = w := by
  unfold decodeFamilyE at h
  split at h <;> cases h <;> exact encodeXKK_of_fields hf ‹_›

theorem encode_of_decodeFamilyF (hf : fieldFamily w = 0xF) (h : decodeFamilyF w = .instr i) : encode i = w := by
  unfold decodeFamilyF at h
  split at h <;> cases h <;> exact encodeXKK_of_fields hf ‹_›

/-- `ins` is the instruction family `f` holds alone, with its n fixed to 0. -/
theorem encode_of_decodeXY0 {f : Nibble} {ins : Reg → Reg → Instr} (hins : ∀ x y, encode (ins x y) = encodeXYN f x y 0x0)
    (hf : fieldFamily w = f) (h : decodeXY0 ins w = .instr i) : encode i = w := by
  unfold decodeXY0 at h
  split at h <;> cases h
  rw [hins, encodeXYN_of_fields hf ‹_›]

/-- A word that decodes is the encoding of its instruction, family by family (R74, R75). -/
theorem encode_of_decode (h : decode w = .instr i) : encode i = w := by
  unfold decode at h
  split at h
  case h_1 => exact encode_of_decodeFamily0 h
  case h_6 hf | h_10 hf => exact encode_of_decodeXY0 (fun _ _ => rfl) hf h
  case h_9 hf => exact encode_of_decodeFamily8 hf h
  case h_15 hf => exact encode_of_decodeFamilyE hf h
  case h_16 hf => exact encode_of_decodeFamilyF hf h
  case h_2 hf | h_3 hf | h_11 hf | h_12 hf => cases h; exact encodeNNN_of_family hf
  case h_4 hf | h_5 hf | h_7 hf | h_8 hf | h_13 hf => cases h; exact encodeXKK_of_fields hf rfl
  case h_14 hf => cases h; exact encodeXYN_of_fields hf rfl
  case h_17 => cases h

end

/-- Settles O3, family by family: a word is put together again from the fields its family and function code leave. -/
theorem encodeInvertsDecode : Obligations.EncodeInvertsDecode := fun _ _ => encode_of_decode

/-! ## What the words of a row decode to -/

/-- If a row's words are the encodings of `ins` of their fields, they decode to it. -/
theorem decodesAs_of_encode {mask value : Word} {ins : Word → Instr}
    (h : ∀ w, w &&& mask = value → encode (ins w) = w) : DecodesAs mask value ins := by
  intro w hw
  rw [← decode_encode (ins w), h w hw]

theorem fieldFamily_of_and {w m v : Word} (h : w &&& m = v) (hm : fieldFamily m = 0xF#4) :
    fieldFamily w = fieldFamily v := by
  rw [← h, fieldFamily_and, hm, Laws.nibble_and_ones]

theorem fieldN_of_and {w m v : Word} (h : w &&& m = v) (hm : fieldN m = 0xF#4) : fieldN w = fieldN v := by
  rw [← h, fieldN_and, hm, Laws.nibble_and_ones]

theorem fieldKK_of_and {w m v : Word} (h : w &&& m = v) (hm : fieldKK m = 0xFF#8) : fieldKK w = fieldKK v := by
  rw [← h, fieldKK_and, hm, Laws.byte_and_ones]

/-- Rows without operands: the word itself. -/
theorem decodesAs_none {i : Instr} : DecodesAs 0xFFFF (encode i) fun _ => i :=
  decodesAs_of_encode fun w h => by rw [← h]; exact BitVec.and_allOnes

section
variable (f : Nibble)

/-- Rows of format NNN, mask 0xF000. -/
theorem decodesAs_nnn (ins : Address → Instr) (hins : ∀ a, encode (ins a) = encodeNNN f a) :
    DecodesAs 0xF000 (encodeNNN f 0) fun w => ins (fieldNNN w) := by
  refine decodesAs_of_encode fun w h => ?_
  have hf := fieldFamily_of_and h rfl
  rw [hins, encodeNNN_of_family (hf.trans (fieldFamily_encodeNNN ..))]

/-- Rows of format XKK, mask 0xF000. -/
theorem decodesAs_xkk (ins : Reg → Byte → Instr) (hins : ∀ x k, encode (ins x k) = encodeXKK f x k) :
    DecodesAs 0xF000 (encodeXKK f 0 0) fun w => ins (fieldX w) (fieldKK w) := by
  refine decodesAs_of_encode fun w h => ?_
  have hf := fieldFamily_of_and h rfl
  rw [hins, encodeXKK_of_fields (hf.trans (fieldFamily_encodeXKK ..)) rfl]

/-- Rows of format X, mask 0xF0FF: the low byte is a function code. -/
theorem decodesAs_x (k : Byte) (ins : Reg → Instr) (hins : ∀ x, encode (ins x) = encodeXKK f x k) :
    DecodesAs 0xF0FF (encodeXKK f 0 k) fun w => ins (fieldX w) := by
  refine decodesAs_of_encode fun w h => ?_
  have hf := fieldFamily_of_and h rfl
  have hk := fieldKK_of_and h rfl
  rw [hins, encodeXKK_of_fields (hf.trans (fieldFamily_encodeXKK ..)) (hk.trans (fieldKK_encodeXKK ..))]

/-- Rows of format XY, mask 0xF00F: n is a function code. -/
theorem decodesAs_xy (n : Nibble) (ins : Reg → Reg → Instr) (hins : ∀ x y, encode (ins x y) = encodeXYN f x y n) :
    DecodesAs 0xF00F (encodeXYN f 0 0 n) fun w => ins (fieldX w) (fieldY w) := by
  refine decodesAs_of_encode fun w h => ?_
  have hf := fieldFamily_of_and h rfl
  have hn := fieldN_of_and h rfl
  rw [hins, encodeXYN_of_fields (hf.trans (fieldFamily_encodeXYN ..)) (hn.trans (fieldN_encodeXYN ..))]

/-- Rows of format XYN, mask 0xF000. -/
theorem decodesAs_xyn (ins : Reg → Reg → Nibble → Instr) (hins : ∀ x y n, encode (ins x y n) = encodeXYN f x y n) :
    DecodesAs 0xF000 (encodeXYN f 0 0 0) fun w => ins (fieldX w) (fieldY w) (fieldN w) := by
  refine decodesAs_of_encode fun w h => ?_
  have hf := fieldFamily_of_and h rfl
  rw [hins, encodeXYN_of_fields (hf.trans (fieldFamily_encodeXYN ..)) rfl]

end

/-! ## The opcode table -/

/-- The row's words decode, all to instructions of the row's mnemonic. -/
def RowDecodes (r : OpcodeRow) : Prop :=
  ∃ ins : Word → Instr, DecodesAs r.mask r.value ins ∧ ∀ w, (ins w).mnemonic = r.mnemonic

theorem rowDecodes_of_families : ∀ r ∈ opcodeRowsOfFamilies, RowDecodes r := by
  simp only [opcodeRowsOfFamilies, List.forall_mem_cons]
  exact ⟨⟨_, decodesAs_none (i := .cls), fun _ => rfl⟩, ⟨_, decodesAs_none (i := .ret), fun _ => rfl⟩,
    ⟨_, decodesAs_nnn 0x1 .jp fun _ => rfl, fun _ => rfl⟩, ⟨_, decodesAs_nnn 0x2 .call fun _ => rfl, fun _ => rfl⟩,
    ⟨_, decodesAs_xkk 0x3 .seVxKK fun _ _ => rfl, fun _ => rfl⟩,
    ⟨_, decodesAs_xkk 0x4 .sneVxKK fun _ _ => rfl, fun _ => rfl⟩,
    ⟨_, decodesAs_xy 0x5 0x0 .seVxVy fun _ _ => rfl, fun _ => rfl⟩,
    ⟨_, decodesAs_xkk 0x6 .ldVxKK fun _ _ => rfl, fun _ => rfl⟩,
    ⟨_, decodesAs_xkk 0x7 .addVxKK fun _ _ => rfl, fun _ => rfl⟩,
    ⟨_, decodesAs_xy 0x9 0x0 .sneVxVy fun _ _ => rfl, fun _ => rfl⟩,
    ⟨_, decodesAs_nnn 0xA .ldI fun _ => rfl, fun _ => rfl⟩, ⟨_, decodesAs_nnn 0xB .jpV0 fun _ => rfl, fun _ => rfl⟩,
    ⟨_, decodesAs_xkk 0xC .rnd fun _ _ => rfl, fun _ => rfl⟩,
    ⟨_, decodesAs_xyn 0xD .drw fun _ _ _ => rfl, fun _ => rfl⟩, List.forall_mem_nil _⟩

theorem rowDecodes_of_family8 : ∀ r ∈ opcodeRowsOfFamily8, RowDecodes r := by
  simp only [opcodeRowsOfFamily8, List.forall_mem_cons]
  exact ⟨⟨_, decodesAs_xy 0x8 0x0 .ldVxVy fun _ _ => rfl, fun _ => rfl⟩,
    ⟨_, decodesAs_xy 0x8 0x1 .or fun _ _ => rfl, fun _ => rfl⟩,
    ⟨_, decodesAs_xy 0x8 0x2 .and fun _ _ => rfl, fun _ => rfl⟩,
    ⟨_, decodesAs_xy 0x8 0x3 .xor fun _ _ => rfl, fun _ => rfl⟩,
    ⟨_, decodesAs_xy 0x8 0x4 .addVxVy fun _ _ => rfl, fun _ => rfl⟩,
    ⟨_, decodesAs_xy 0x8 0x5 .sub fun _ _ => rfl, fun _ => rfl⟩,
    ⟨_, decodesAs_xy 0x8 0x6 .shr fun _ _ => rfl, fun _ => rfl⟩,
    ⟨_, decodesAs_xy 0x8 0x7 .subn fun _ _ => rfl, fun _ => rfl⟩,
    ⟨_, decodesAs_xy 0x8 0xE .shl fun _ _ => rfl, fun _ => rfl⟩, List.forall_mem_nil _⟩

theorem rowDecodes_of_familiesEF : ∀ r ∈ opcodeRowsOfFamiliesEF, RowDecodes r := by
  simp only [opcodeRowsOfFamiliesEF, List.forall_mem_cons]
  exact ⟨⟨_, decodesAs_x 0xE 0x9E .skp fun _ => rfl, fun _ => rfl⟩,
    ⟨_, decodesAs_x 0xE 0xA1 .sknp fun _ => rfl, fun _ => rfl⟩,
    ⟨_, decodesAs_x 0xF 0x07 .ldVxDT fun _ => rfl, fun _ => rfl⟩,
    ⟨_, decodesAs_x 0xF 0x0A .ldVxK fun _ => rfl, fun _ => rfl⟩,
    ⟨_, decodesAs_x 0xF 0x15 .ldDTVx fun _ => rfl, fun _ => rfl⟩,
    ⟨_, decodesAs_x 0xF 0x18 .ldSTVx fun _ => rfl, fun _ => rfl⟩,
    ⟨_, decodesAs_x 0xF 0x1E .addIVx fun _ => rfl, fun _ => rfl⟩,
    ⟨_, decodesAs_x 0xF 0x29 .ldFVx fun _ => rfl, fun _ => rfl⟩,
    ⟨_, decodesAs_x 0xF 0x33 .ldBVx fun _ => rfl, fun _ => rfl⟩,
    ⟨_, decodesAs_x 0xF 0x55 .ldMemVx fun _ => rfl, fun _ => rfl⟩,
    ⟨_, decodesAs_x 0xF 0x65 .ldVxMem fun _ => rfl, fun _ => rfl⟩, List.forall_mem_nil _⟩

/-- Every row of the table is one instruction's: its words decode, and to that instruction. -/
theorem rowDecodes {r : OpcodeRow} (hr : r ∈ opcodeTable) : RowDecodes r := by
  obtain hr | hr := List.mem_append.1 hr
  · obtain hr | hr := List.mem_append.1 hr
    · exact rowDecodes_of_families r hr
    · exact rowDecodes_of_family8 r hr
  · exact rowDecodes_of_familiesEF r hr

/-- Every instruction has a row, which its encoding matches. -/
theorem rowOfTable : ∀ i, Laws.RowOfTable.Statement i
  | .cls => Laws.RowOfTable.cls
  | .ret => Laws.RowOfTable.ret
  | .jp _ => Laws.RowOfTable.jp ..
  | .call _ => Laws.RowOfTable.call ..
  | .seVxKK _ _ => Laws.RowOfTable.seVxKK ..
  | .sneVxKK _ _ => Laws.RowOfTable.sneVxKK ..
  | .seVxVy _ _ => Laws.RowOfTable.seVxVy ..
  | .ldVxKK _ _ => Laws.RowOfTable.ldVxKK ..
  | .addVxKK _ _ => Laws.RowOfTable.addVxKK ..
  | .ldVxVy _ _ => Laws.RowOfTable.ldVxVy ..
  | .or _ _ => Laws.RowOfTable.or ..
  | .and _ _ => Laws.RowOfTable.and ..
  | .xor _ _ => Laws.RowOfTable.xor ..
  | .addVxVy _ _ => Laws.RowOfTable.addVxVy ..
  | .sub _ _ => Laws.RowOfTable.sub ..
  | .shr _ _ => Laws.RowOfTable.shr ..
  | .subn _ _ => Laws.RowOfTable.subn ..
  | .shl _ _ => Laws.RowOfTable.shl ..
  | .sneVxVy _ _ => Laws.RowOfTable.sneVxVy ..
  | .ldI _ => Laws.RowOfTable.ldI ..
  | .jpV0 _ => Laws.RowOfTable.jpV0 ..
  | .rnd _ _ => Laws.RowOfTable.rnd ..
  | .drw _ _ _ => Laws.RowOfTable.drw ..
  | .skp _ => Laws.RowOfTable.skp ..
  | .sknp _ => Laws.RowOfTable.sknp ..
  | .ldVxDT _ => Laws.RowOfTable.ldVxDT ..
  | .ldVxK _ => Laws.RowOfTable.ldVxK ..
  | .ldDTVx _ => Laws.RowOfTable.ldDTVx ..
  | .ldSTVx _ => Laws.RowOfTable.ldSTVx ..
  | .addIVx _ => Laws.RowOfTable.addIVx ..
  | .ldFVx _ => Laws.RowOfTable.ldFVx ..
  | .ldBVx _ => Laws.RowOfTable.ldBVx ..
  | .ldMemVx _ => Laws.RowOfTable.ldMemVx ..
  | .ldVxMem _ => Laws.RowOfTable.ldVxMem ..

/-- The mnemonic names the row. -/
theorem opcodeRow_eq_of_mnemonic {r r' : OpcodeRow} (hr : r ∈ opcodeTable) (hr' : r' ∈ opcodeTable)
    (h : r.mnemonic = r'.mnemonic) : r = r' :=
  List.inj_on_of_nodup_map (f := OpcodeRow.mnemonic) (l := opcodeTable) (by decide) hr hr' h

/-- A word matches a row exactly when it decodes to an instruction of the row's mnemonic (R74, R75). -/
theorem matches_iff_decode {r : OpcodeRow} (hr : r ∈ opcodeTable) (w : Word) :
    r.Matches w ↔ ∃ i, decode w = .instr i ∧ i.mnemonic = r.mnemonic := by
  constructor
  · intro hm
    obtain ⟨ins, hdec, hmn⟩ := rowDecodes hr
    exact ⟨ins w, hdec w hm, hmn w⟩
  · rintro ⟨i, hd, hmn⟩
    obtain ⟨r', hr', hmn', hm⟩ := rowOfTable i
    obtain rfl := opcodeRow_eq_of_mnemonic hr' hr (hmn'.trans hmn)
    rwa [encode_of_decode hd] at hm

/-- A word matches at most one row: it decodes to one instruction, and its mnemonic names the row. -/
theorem opcodeRow_eq_of_matches {r r' : OpcodeRow} (hr : r ∈ opcodeTable) (hr' : r' ∈ opcodeTable) {w : Word}
    (hm : r.Matches w) (hm' : r'.Matches w) : r = r' := by
  obtain ⟨i, hd, hmn⟩ := (matches_iff_decode hr w).1 hm
  obtain ⟨i', hd', hmn'⟩ := (matches_iff_decode hr' w).1 hm'
  obtain rfl : i = i' := Decoded.instr.inj (hd.symm.trans hd')
  exact opcodeRow_eq_of_mnemonic hr hr' (hmn.symm.trans hmn')

/-- A word matches no row exactly when it is UNKNOWN: an instruction it decodes to would have a row. -/
theorem no_match_iff_unknown (w : Word) : (∀ r ∈ opcodeTable, ¬r.Matches w) ↔ decode w = .unknown w := by
  constructor
  · intro hno
    cases hd : decode w with
    | unknown u => rw [decode_unknown hd]
    | instr i =>
      obtain ⟨r, hr, -, hm⟩ := rowOfTable i
      exact absurd (encode_of_decode hd ▸ hm) (hno r hr)
  · intro hd r hr hm
    obtain ⟨i, hi, -⟩ := (matches_iff_decode hr w).1 hm
    exact nomatch hd.symm.trans hi

/-- Settles O4: the rows are matched with the instructions by mnemonic, and a row's words are its instruction's encodings. -/
theorem decodeFollowsOpcodeTable : Obligations.DecodeFollowsOpcodeTable := fun w =>
  ⟨fun _ hr => matches_iff_decode hr w, fun _ hr _ hr' => opcodeRow_eq_of_matches hr hr', no_match_iff_unknown w⟩

/-! ## The UNKNOWN space -/

theorem fieldFamily_toNat (w : Word) : (fieldFamily w).toNat = w.toNat / 4096 := by
  have hw := w.isLt
  rw [fieldFamily, BitVec.extractLsb'_toNat, Nat.shiftRight_eq_div_pow]
  omega

theorem fieldN_toNat (w : Word) : (fieldN w).toNat = w.toNat % 16 := by
  simp [fieldN, BitVec.extractLsb'_toNat]

theorem fieldKK_toNat (w : Word) : (fieldKK w).toNat = w.toNat % 256 := by
  simp [fieldKK, BitVec.extractLsb'_toNat]

section
variable {w : Word}

theorem decodeXY0_eq_unknown_iff (ins : Reg → Reg → Instr) :
    decodeXY0 ins w = .unknown w ↔ w.toNat % 16 ≠ 0 := by
  rw [← fieldN_toNat]
  unfold decodeXY0
  split <;> simp_all [BitVec.toNat_eq]

theorem decodeFamily0_eq_unknown_iff : decodeFamily0 w = .unknown w ↔ w.toNat ≠ 0x00E0 ∧ w.toNat ≠ 0x00EE := by
  unfold decodeFamily0
  split <;> simp_all [BitVec.toNat_eq]

theorem decodeFamily8_eq_unknown_iff :
    decodeFamily8 w = .unknown w ↔ w.toNat % 16 ∈ [0x8, 0x9, 0xA, 0xB, 0xC, 0xD, 0xF] := by
  rw [← fieldN_toNat]
  unfold decodeFamily8
  split
  case h_10 =>
    simp_all [BitVec.toNat_eq]
    omega
  all_goals simp_all

theorem decodeFamilyE_eq_unknown_iff : decodeFamilyE w = .unknown w ↔ w.toNat % 256 ∉ [0x9E, 0xA1] := by
  rw [← fieldKK_toNat]
  unfold decodeFamilyE
  split <;> simp_all [BitVec.toNat_eq]

theorem decodeFamilyF_eq_unknown_iff :
    decodeFamilyF w = .unknown w ↔ w.toNat % 256 ∉ [0x07, 0x0A, 0x15, 0x18, 0x1E, 0x29, 0x33, 0x55, 0x65] := by
  rw [← fieldKK_toNat]
  unfold decodeFamilyF
  split <;> simp_all [BitVec.toNat_eq]

/-- The table of R76 against the decoder: the families it does not list decode every word (R74, R75). -/
theorem inUnknownSpace_iff_unknown : InUnknownSpace w.toNat ↔ decode w = .unknown w := by
  unfold InUnknownSpace
  rw [← fieldFamily_toNat]
  unfold decode
  split
  case h_1 hf => simp [hf, decodeFamily0_eq_unknown_iff]
  case h_6 hf | h_10 hf => simp [hf, decodeXY0_eq_unknown_iff]
  case h_9 hf => simp [hf, decodeFamily8_eq_unknown_iff]
  case h_15 hf => simp [hf, decodeFamilyE_eq_unknown_iff]
  case h_16 hf => simp [hf, decodeFamilyF_eq_unknown_iff]
  case h_2 hf | h_3 hf | h_4 hf | h_5 hf | h_7 hf | h_8 hf | h_11 hf | h_12 hf | h_13 hf | h_14 hf => simp [hf]
  case h_17 =>
    exfalso
    simp only [imp_false] at *
    bv_omega

end

/-- Settles O5, family by family: each clause of R76 is the default branch of its family's decoder. -/
theorem unknownSpaceIsTabled : Obligations.UnknownSpaceIsTabled := fun _ =>
  ⟨inUnknownSpace_iff_unknown, fun _ => decode_unknown⟩

/-! ## The worked words -/

/-- Settles O1: the decoder run on each word. -/
theorem workedWordsDecode : Obligations.WorkedWordsDecode := by
  unfold Obligations.WorkedWordsDecode
  decide

end Sys2Proof.Machine

/-! The proofs of the statements about control transfer (40_control_flow.md): first the rules of PC, of a command and of
the state a STEP hands to `exec`, then each statement from these rules. -/

namespace Sys2Proof.Machine

/-! ## The program counter and its frame -/

/-- The mask of an assignment to PC leaves a PC value as it is (10_state.md R23, R24). -/
theorem mask12_of_lt {a : Word} (h : a.toNat < 4096) : a &&& 0x0FFF#16 = a :=
  BitVec.eq_of_toNat_eq ((toNat_mask12 a).trans (Nat.mod_eq_of_lt h))

/-- A jump to an address field reaches that address: twelve bits survive the mask (30_encoding.md R72). -/
theorem State.setPc_zextAddress (s : State) (nnn : Address) : (s.setPc (zextAddress nnn)).pc = zextAddress nnn :=
  mask12_of_lt (by rw [zextAddress, BitVec.toNat_setWidth_of_le (by decide)]; exact nnn.isLt)

/-- PC after the advance, as a number (40_control_flow.md R100, R103). -/
theorem State.toNat_advance (s : State) : s.advance.pc.toNat = (s.pc.toNat + 2) % 4096 := by
  rw [State.advance, State.toNat_setPc]
  bv_omega

theorem State.toNat_skipIf (s : State) (c : Bool) :
    (s.skipIf c).pc.toNat = if c then (s.pc.toNat + 2) % 4096 else s.pc.toNat := by
  cases c
  · rfl
  · exact s.toNat_advance

theorem State.changesOnlyPc_skipIf (s : State) (c : Bool) : ChangesOnlyPc s (s.skipIf c) := by
  rw [State.skipIf_eq]; rfl

theorem ChangesOnlyPc.sameMemory {s t : State} (h : ChangesOnlyPc s t) : SameMemory s t := by
  rw [ChangesOnlyPc] at h
  rw [h]
  exact fun _ => rfl

/-- A skip taken when two bytes are equal (40_control_flow.md R103). -/
theorem State.skipIf_beq (s : State) (a b : Byte) :
    ChangesOnlyPc s (s.skipIf (a == b)) ∧ SameMemory s (s.skipIf (a == b)) ∧
      (s.skipIf (a == b)).pc.toNat = if a = b then (s.pc.toNat + 2) % 4096 else s.pc.toNat :=
  have hframe := s.changesOnlyPc_skipIf (a == b)
  ⟨hframe, hframe.sameMemory, by simp [State.toNat_skipIf]⟩

/-- A skip taken when two bytes differ (40_control_flow.md R103). -/
theorem State.skipIf_bne (s : State) (a b : Byte) :
    ChangesOnlyPc s (s.skipIf (a != b)) ∧ SameMemory s (s.skipIf (a != b)) ∧
      (s.skipIf (a != b)).pc.toNat = if a = b then s.pc.toNat else (s.pc.toNat + 2) % 4096 :=
  have hframe := s.changesOnlyPc_skipIf (a != b)
  ⟨hframe, hframe.sameMemory, by simp [State.toNat_skipIf]⟩

/-! ## A STEP, and the state it hands to `exec` -/

/-- Inputs the environment leaves open stay as they are where the instruction samples none (log 1). -/
theorem State.sample_none_of_not_samples (s : State) {i : Instr} (h : samplesInput i = false) : s.sample none i = s := by
  simp [State.sample, h]

/-- Inputs the environment leaves open are the next free values where the instruction samples one (log 1). -/
theorem State.sample_none_of_samples (s : State) {i : Instr} (h : samplesInput i = true) :
    s.sample none i = s.setEnv { s.env with
      inputs := ⟨Config.keyHeldInput s.env.draws, Config.rndInput s.env.draws⟩
      draws := s.env.draws + 1 } := by
  simp [State.sample, h]

/-- Sampling the inputs issues no command. -/
theorem State.sample_script (s : State) (g : Option Inputs) (i : Instr) :
    (s.sample g i).env.script = s.env.script := by
  cases g with
  | some p => rfl
  | none =>
    cases h : samplesInput i
    · rw [s.sample_none_of_not_samples h]
    · rw [s.sample_none_of_samples h]; rfl

/-- A step executes the command the environment issues (10_state.md R37). -/
theorem step_of_nextCommand {s : State} {c : Command} (h : s.env.nextCommand = c) :
    step s = (s.setEnv s.env.issued).command c := by
  rw [← h]; rfl

/-- The state in which a STEP of `i` runs the instruction: command consumed, inputs sampled, PC advanced, reports written
(40_control_flow.md R100; log 21). -/
def State.execStart (s : State) (g : Option Inputs) (i : Instr) : State :=
  ((s.setEnv s.env.issued).sample g i).beginStep s.fetch

theorem step_of_executes {s : State} {g : Option Inputs} {i : Instr} (h : s.Executes g i) :
    step s = exec i (s.execStart g i) := by
  obtain ⟨⟨hc, hl⟩, hd⟩ := h
  rw [step_of_nextCommand hc]
  exact State.stepCommand_instr (s := s.setEnv s.env.issued) hl hd g

section
variable (s : State) (g : Option Inputs) (i : Instr)

/-- Before the instruction's own effect a STEP changes PC, the reports and the environment alone. -/
theorem State.execStart_frame : s.execStart g i =
    { s with pc := s.advance.pc
             out := { s.out.quiet with missWord := s.fetch }
             env := ((s.setEnv s.env.issued).sample g i).env } := by
  rw [State.execStart, State.sample_frame]; rfl

theorem State.toNat_execStart_pc : (s.execStart g i).pc.toNat = (s.pc.toNat + 2) % 4096 := by
  rw [State.execStart_frame]
  exact s.toNat_advance

@[simp] theorem State.execStart_stack : (s.execStart g i).stack = s.stack := by rw [State.execStart_frame]
@[simp] theorem State.execStart_sp : (s.execStart g i).sp = s.sp := by rw [State.execStart_frame]
@[simp] theorem State.execStart_latch : (s.execStart g i).latch = s.latch := by rw [State.execStart_frame]
@[simp] theorem State.execStart_env : (s.execStart g i).env = ((s.setEnv s.env.issued).sample g i).env := by
  rw [State.execStart_frame]

end

/-! ## CALL and RET -/

theorem exec_call_of_lt {s : State} (hroom : s.sp.val < 16) (nnn : Address) :
    exec (.call nnn) s = .next ((s.push s.pc).setPc (zextAddress nnn)) := by
  rw [exec_call, if_pos hroom]

/-- Settles O22: RET finds the pushed PC one entry below, and a PC value survives the mask of the pop. -/
theorem callThenReturnRestoresPc : Obligations.CallThenReturnRestoresPc := by
  intro nnn s hroom hpc
  refine ⟨_, exec_call_of_lt hroom nnn, fun u hsp hstack => ⟨_, rfl, ?_⟩⟩
  rw [State.push_of_lt hroom] at hsp hstack
  have hpos : u.sp.val ≠ 0 := by rw [hsp]; exact Nat.succ_ne_zero _
  rw [State.popPc_of_pos hpos]
  simp [hsp, hstack, mask12_of_lt hpc]

/-! ## The inputs -/

theorem State.setEnv_skipIf (s : State) (e : Environment) (c : Bool) :
    (s.setEnv e).skipIf c = (s.skipIf c).setEnv e := by
  cases c <;> rfl

theorem State.setEnv_push (s : State) (e : Environment) (a : Word) : (s.setEnv e).push a = (s.push a).setEnv e := by
  by_cases hroom : s.sp.val < 16
  · rw [State.push_of_lt hroom, State.push_of_lt (s := s.setEnv e) hroom]; rfl
  · rw [State.push_of_full hroom, State.push_of_full (s := s.setEnv e) hroom]

theorem State.setEnv_popPc (s : State) (e : Environment) : (s.setEnv e).popPc = s.popPc.setEnv e := by
  by_cases hempty : s.sp.val = 0
  · rw [State.popPc_of_zero hempty, State.popPc_of_zero (s := s.setEnv e) hempty]
  · rw [State.popPc_of_pos hempty, State.popPc_of_pos (s := s.setEnv e) hempty]; rfl

theorem State.setEnv_storeRegs (s : State) (e : Environment) (k : Nat) :
    (s.setEnv e).storeRegs k = (s.storeRegs k).setEnv e := by
  induction k with
  | zero => rfl
  | succ k ih => rw [State.storeRegs, ih]; rfl

theorem State.setEnv_loadRegs (s : State) (e : Environment) (k : Nat) :
    (s.setEnv e).loadRegs k = (s.loadRegs k).setEnv e := by
  induction k with
  | zero => rfl
  | succ k ih => rw [State.loadRegs, ih]; rfl

/-- KeyHeld reads the input key_held alone (10_state.md R41). -/
theorem State.setEnv_keyHeld {s : State} {e : Environment} (h : e.inputs.keyHeld = s.env.inputs.keyHeld) (k : Nibble) :
    (s.setEnv e).keyHeld k = s.keyHeld k :=
  congrArg (BitVec.getLsbD · k.toNat) h

/-- What an instruction does is the same in any environment that agrees on the input it reads: key_held for SKP and SKNP,
rnd for RND, none for any other (40_control_flow.md R115). -/
theorem exec_setEnv {i : Instr} {s t : State} {e : Environment}
    (hkey : e.inputs.keyHeld = s.env.inputs.keyHeld ∨ (∀ x, i ≠ .skp x) ∧ ∀ x, i ≠ .sknp x)
    (hrnd : e.inputs.rnd = s.env.inputs.rnd ∨ ∀ x kk, i ≠ .rnd x kk) (h : exec i s = .next t) :
    exec i (s.setEnv e) = .next (t.setEnv e) := by
  cases i with
  | skp x | sknp x =>
    have hkey : e.inputs.keyHeld = s.env.inputs.keyHeld := by simpa using hkey
    cases h
    rw [← State.setEnv_keyHeld hkey, ← State.setEnv_skipIf]; rfl
  | rnd x kk =>
    have hrnd : (s.setEnv e).randByte = s.randByte := hrnd.resolve_right fun hne => hne x kk rfl
    cases h
    rw [← hrnd]; rfl
  | seVxKK | sneVxKK | seVxVy | sneVxVy =>
    cases h
    exact congrArg _ (State.setEnv_skipIf ..)
  | call nnn =>
    rw [exec_call] at h ⊢
    cases h
    rw [State.setEnv_push, apply_ite (State.setEnv · e)]; rfl
  | ret =>
    cases h
    exact congrArg _ (State.setEnv_popPc ..)
  | ldMemVx =>
    cases h
    exact congrArg _ (State.setEnv_storeRegs ..)
  | ldVxMem =>
    cases h
    exact congrArg _ (State.setEnv_loadRegs ..)
  | cls | jp | jpV0 | ldI | addIVx | ldFVx | ldDTVx | ldSTVx | ldVxK | ldBVx | drw | ldVxKK | addVxKK | ldVxVy | or | and
  | xor | addVxVy | sub | subn | shr | shl | ldVxDT =>
    cases h
    rfl

/-- Settles O53: the changed environment agrees on the input the instruction reads. -/
theorem inputsReadAsTabled : Obligations.InputsReadAsTabled := fun _ _ _ _ h =>
  ⟨fun hskp hsknp => exec_setEnv (.inr ⟨hskp, hsknp⟩) (.inl rfl) h, fun hrnd => exec_setEnv (.inl rfl) (.inr hrnd) h⟩

/-! ## The control FSM -/

theorem exec_latch {i : Instr} {s t : State} (h : exec i s = .next t) :
    t.latch = if mayWrite i .latch then t.latch else s.latch :=
  congrArg State.latch (exec_frame h)

/-- An instruction that runs in RUN moves the FSM by its row of R102: only LD Vx, K leaves RUN (R115). -/
theorem exec_latch_of_run {i : Instr} {s t : State} (hrun : s.latch = none) (h : exec i s = .next t)
    (g : Option Inputs) : t.latch = nextLatch none (.step g) (some i) := by
  cases i with
  | ldVxK x => cases h; rfl
  | _ => exact (exec_latch h).trans hrun

theorem State.loadCommand_latch (s : State) (data : List Byte) : (s.loadCommand data).latch = s.latch := by
  unfold State.loadCommand
  split
  · rfl
  · rw [State.writeBytes_frame]; rfl

/-- A delivered key ends the wait; outside one there is none to end (40_control_flow.md R102). -/
theorem State.keyCommand_latch (s : State) (k : Nibble) : (s.keyCommand k).latch = none := by
  unfold State.keyCommand
  split
  · rfl
  · assumption

/-- Settles O54, command by command: a STEP in RUN by `exec_latch_of_run`. -/
theorem fsmFollowsTable : Obligations.FsmFollowsTable := by
  intro s t h
  obtain ⟨hc, e⟩ | ⟨data, hc, e⟩ | ⟨hc, e⟩ | ⟨k, hc, e⟩ | ⟨g, x, hc, hl, e⟩ | ⟨g, w, hc, hl, hd, e⟩ |
    ⟨g, i, hc, hl, hd, e⟩ := step_cases s <;> rw [e] at h <;> rw [hc]
  · cases h
    rfl
  · cases h
    exact State.loadCommand_latch ..
  · cases h
    rfl
  · cases h
    exact State.keyCommand_latch ..
  · cases h
    rw [hl]
    exact hl
  · cases h
    simp only [State.instrAtPc, hl, hd]
    exact hl
  · simp only [State.instrAtPc, hl, hd]
    exact exec_latch_of_run ((s.execStart_latch g i).trans hl) h g

/-! ## The three forms of a STEP -/

/-- Settles O6: the state is `State.execStart`, read off field by field. -/
theorem stepRunsDecodedInstruction : Obligations.StepRunsDecodedInstruction := by
  intro s g i h
  refine ⟨s.execStart g i, step_of_executes h, ?_, s.toNat_execStart_pc g i, ?_, ?_, ?_, ?_, ?_⟩
  · rw [State.execStart_frame]
  · rw [State.execStart_frame]; rfl
  · rw [State.execStart_env, State.sample_script]; rfl
  · rintro p rfl
    rw [State.execStart_env]
    exact ⟨rfl, rfl⟩
  · rintro rfl hsamples
    rw [State.execStart_env, State.sample_none_of_samples _ hsamples]
    exact ⟨rfl, rfl⟩
  · rintro rfl hsamples
    rw [State.execStart_env, State.sample_none_of_not_samples _ hsamples]
    exact ⟨rfl, rfl⟩

/-- Settles O7: the words of R76 by `inUnknownSpace_iff_unknown`, the STEP by `State.stepCommand_unknown`. -/
theorem unknownWordIsReportedNop : Obligations.UnknownWordIsReportedNop := by
  refine ⟨fun _ => inUnknownSpace_iff_unknown.1, fun s g ⟨hc, hl⟩ hd => ?_⟩
  refine ⟨(s.setEnv s.env.issued).decodeMissStep s.fetch, ?_, s.toNat_advance, rfl, rfl⟩
  rw [step_of_nextCommand hc]
  exact State.stepCommand_unknown (s := s.setEnv s.env.issued) hl hd g

/-- Settles O8: a waiting STEP consumes its command and clears the reports. -/
theorem waitingStepChangesNothing : Obligations.WaitingStepChangesNothing := by
  intro s g x hc hl
  rw [step_of_nextCommand hc]
  exact State.stepCommand_waiting (s := s.setEnv s.env.issued) hl g

/-! ## Jumps and calls -/

/-- Settles O16: a jump back to the STEP's own PC undoes the advance. -/
theorem jumpGoesToAddress : Obligations.JumpGoesToAddress := by
  refine ⟨decodesAs_nnn 0x1 .jp fun _ => rfl, fun nnn s => ?_, fun s g nnn hx hpc => ?_⟩
  · exact ⟨_, rfl, s.setPc_zextAddress nnn, rfl, fun _ => rfl⟩
  · refine ⟨_, step_of_executes hx, ?_⟩
    rw [State.setPc_frame, State.setPc_zextAddress, ← hpc, State.execStart_frame]

/-- Settles O17: a CALL with room by `State.push_of_lt`; through a STEP the pushed PC is the advanced one. -/
theorem callPushesReturnAddress : Obligations.CallPushesReturnAddress := by
  refine ⟨decodesAs_nnn 0x2 .call fun _ => rfl, fun nnn s hroom => ?_, fun nnn s hfull => ?_, fun s g nnn hx j hj => ?_⟩
  · refine ⟨_, exec_call_of_lt hroom nnn, (s.push s.pc).setPc_zextAddress nnn, ?_⟩
    rw [State.push_of_lt hroom]
    refine ⟨rfl, fun j => ?_, rfl, fun _ => rfl⟩
    simp [Vector.getElem_set, eq_comm]
  · rw [exec_call, if_neg (by omega)]
  · have hroom : (s.execStart g (.call nnn)).sp.val < 16 := by
      rw [State.execStart_sp, ← hj]; exact j.isLt
    refine ⟨_, (step_of_executes hx).trans (exec_call_of_lt hroom nnn), ?_⟩
    rw [← s.toNat_execStart_pc g (.call nnn), State.push_of_lt hroom]
    simp [hj]

/-- Settles O18, by the two cases of a pop: an empty stack and one with an entry. -/
theorem returnPopsPc : Obligations.ReturnPopsPc := by
  refine ⟨decodesAs_none (i := .ret), fun s hempty => ?_, fun s hpos => ⟨s.popPc, rfl, ?_⟩⟩
  · exact congrArg _ (State.popPc_of_zero hempty)
  · rw [State.popPc_of_pos hpos]
    refine ⟨Nat.succ_pred_eq_of_ne_zero hpos, fun j hj => ?_, rfl, fun _ => rfl⟩
    simp [hj]

/-- Settles O21: the sum of a byte and an address does not wrap before the mask. -/
theorem jumpWithOffset : Obligations.JumpWithOffset := by
  refine ⟨decodesAs_nnn 0xB .jpV0 fun _ => rfl, fun nnn s => ⟨_, rfl, rfl, fun _ => rfl, ?_⟩⟩
  rw [State.toNat_setPc, zextByte, zextAddress]
  bv_omega

/-! ## Skips -/

/-- Settles O19: SE is the skip on equal bytes, SNE the skip on different ones. -/
theorem skipOnImmediate : Obligations.SkipOnImmediate :=
  ⟨decodesAs_xkk 0x3 .seVxKK fun _ _ => rfl, decodesAs_xkk 0x4 .sneVxKK fun _ _ => rfl,
    fun _ _ s => ⟨⟨_, rfl, s.skipIf_beq _ _⟩, ⟨_, rfl, s.skipIf_bne _ _⟩⟩⟩

/-- Families 0x5 and 0x9 hold no word whose n is not 0 (30_encoding.md R76; D6, log 11). -/
theorem decode_unknown_of_fieldN_ne {w : Word} (hf : fieldFamily w = 0x5 ∨ fieldFamily w = 0x9) (hn : fieldN w ≠ 0) :
    decode w = .unknown w := by
  rw [← inUnknownSpace_iff_unknown, InUnknownSpace, ← fieldFamily_toNat, ← fieldN_toNat]
  have hn' : (fieldN w).toNat ≠ 0 := by simpa [BitVec.toNat_eq] using hn
  rcases hf with hf | hf
  · exact .inr (.inl ⟨congrArg _ hf, hn'⟩)
  · exact .inr (.inr (.inr (.inl ⟨congrArg _ hf, hn'⟩)))

/-- Settles O20: with x = y the comparison is of a register with itself. -/
theorem skipOnRegisters : Obligations.SkipOnRegisters := by
  refine ⟨decodesAs_xy 0x5 0x0 .seVxVy fun _ _ => rfl, decodesAs_xy 0x9 0x0 .sneVxVy fun _ _ => rfl,
    fun _ => decode_unknown_of_fieldN_ne,
    fun _ _ s => ⟨⟨_, rfl, s.skipIf_beq _ _⟩, ⟨_, rfl, s.skipIf_bne _ _⟩⟩, fun x s => ⟨?_, ?_⟩⟩
  · exact congrArg (Host.Outcome.next <| s.skipIf ·) (beq_self_eq_true (s.getV x))
  · exact congrArg (Host.Outcome.next <| s.skipIf ·) (bne_self_eq_false (s.getV x))

end Sys2Proof.Machine

/-! The proofs of the statements about the register loads and the ALU (41_register_alu.md): first the effect of the three
ways an instruction writes V and the flags as numbers, then each statement from these rules. -/

namespace Sys2Proof.Machine

/-! ## The three ways of writing V -/

section
variable (s : State) (x : Reg)

/-- One register written: every other register, memory and all other state stay (10_state.md R20). -/
theorem State.setV_frame_but (b : Byte) :
    SameRegistersBut [x] s (s.setV x b) ∧ ChangesOnlyV s (s.setV x b) ∧ SameMemory s (s.setV x b) :=
  ⟨fun r hr => by rw [State.getV_setV, if_neg (by simpa using hr)], rfl, fun _ => rfl⟩

/-- One register written, its value told bit by bit. -/
theorem State.setV_bits {b : Byte} {bit : Nat → Bool} (hbit : ∀ j < 8, b.getLsbD j = bit j) :
    SameRegistersBut [x] s (s.setV x b) ∧ ChangesOnlyV s (s.setV x b) ∧ SameMemory s (s.setV x b) ∧
      ∀ j < 8, ((s.setV x b).getV x).getLsbD j = bit j := by
  obtain ⟨hregs, hframe, hmem⟩ := s.setV_frame_but x b
  refine ⟨hregs, hframe, hmem, ?_⟩
  rwa [State.getV_setV_same]

variable {result flag : Byte} {r f : Nat}

theorem State.getV_regF_resultThenFlag : (s.resultThenFlag x result flag).getV regF = flag := by
  rw [State.getV_resultThenFlag, if_pos rfl]

theorem State.getV_regF_flagThenResult {x : Reg} (hx : x ≠ regF) :
    (s.flagThenResult x result flag).getV regF = flag := by
  rw [State.getV_flagThenResult, if_neg hx.symm, if_pos rfl]

/-- ADD, SUB and SUBN, as numbers: VF ends as the flag whatever x is (41_register_alu.md R136; D8, log 8). -/
theorem State.resultThenFlag_effect (hr : result.toNat = r) (hf : flag.toNat = f) :
    (x ≠ regF → ((s.resultThenFlag x result flag).getV x).toNat = r) ∧
      ((s.resultThenFlag x result flag).getV regF).toNat = f ∧
      SameRegistersBut [x, regF] s (s.resultThenFlag x result flag) ∧
      ChangesOnlyV s (s.resultThenFlag x result flag) ∧ SameMemory s (s.resultThenFlag x result flag) := by
  refine ⟨fun hx => ?_, by rwa [State.getV_regF_resultThenFlag], fun q hq => ?_, rfl, fun _ => rfl⟩ <;>
    rw [State.getV_resultThenFlag]
  · rwa [if_neg hx, if_pos rfl]
  · obtain ⟨hqx, hqf⟩ : q ≠ x ∧ q ≠ regF := by simpa using hq
    rw [if_neg hqf, if_neg hqx]

/-- SHR and SHL, as numbers: Vx ends as the result whatever x is (41_register_alu.md R136; D8, log 8). -/
theorem State.flagThenResult_effect (hr : result.toNat = r) (hf : flag.toNat = f) :
    ((s.flagThenResult x result flag).getV x).toNat = r ∧
      (x ≠ regF → ((s.flagThenResult x result flag).getV regF).toNat = f) ∧
      SameRegistersBut [x, regF] s (s.flagThenResult x result flag) ∧
      ChangesOnlyV s (s.flagThenResult x result flag) ∧ SameMemory s (s.flagThenResult x result flag) := by
  refine ⟨?_, fun hx => by rwa [State.getV_regF_flagThenResult s hx], fun q hq => ?_, rfl, fun _ => rfl⟩ <;>
    rw [State.getV_flagThenResult]
  · rwa [if_pos rfl]
  · obtain ⟨hqx, hqf⟩ : q ≠ x ∧ q ≠ regF := by simpa using hq
    rw [if_neg hqx, if_neg hqf]

end

/-! ## Results and flags as numbers -/

section
variable (a b : Byte)

/-- The difference modulo 256 (41_register_alu.md R138, R140). -/
theorem byte_toNat_sub : (a - b).toNat = (a.toNat + 256 - b.toNat) % 256 := by bv_omega

theorem byte_toNat_shiftRight_one : (a >>> 1).toNat = a.toNat / 2 := by
  rw [BitVec.toNat_ushiftRight, Nat.shiftRight_eq_div_pow]

theorem byte_toNat_shiftLeft_one : (a <<< 1).toNat = a.toNat * 2 % 256 := by
  rw [BitVec.toNat_shiftLeft, Nat.shiftLeft_eq]

theorem toNat_carryFlag : (carryFlag a b).toNat = if 256 ≤ a.toNat + b.toNat then 1 else 0 := by
  rw [carryFlag_eq, apply_ite BitVec.toNat]; rfl

theorem toNat_noBorrowFlag : (noBorrowFlag a b).toNat = if b.toNat < a.toNat then 1 else 0 := by
  rw [noBorrowFlag_eq, apply_ite BitVec.toNat]; rfl

theorem toNat_shiftedOutRight : (shiftedOutRight a).toNat = a.toNat % 2 :=
  (BitVec.toNat_and ..).trans (Nat.and_one_is_mod _)

/-- The mask with 1 is idle here: a byte moved down 7 places is below 2. -/
theorem toNat_shiftedOutLeft : (shiftedOutLeft a).toNat = a.toNat / 128 := by
  have hlow : (a >>> 7).toNat = a.toNat / 128 := by rw [BitVec.toNat_ushiftRight, Nat.shiftRight_eq_div_pow]
  have hbit : (shiftedOutLeft a).toNat = (a >>> 7).toNat % 2 := toNat_shiftedOutRight (a >>> 7)
  have ha := a.isLt
  omega

theorem flagByte_eq_zero_or_one (c : Bool) : flagByte c = 0 ∨ flagByte c = 1 := by
  cases c
  · exact .inl rfl
  · exact .inr rfl

theorem shiftedOutRight_eq_zero_or_one : shiftedOutRight a = 0 ∨ shiftedOutRight a = 1 := by
  rw [← BitVec.toNat_inj, ← BitVec.toNat_inj, toNat_shiftedOutRight]
  exact Nat.mod_two_eq_zero_or_one a.toNat

/-- The bit SHL shifts out is the bit SHR shifts out of the top bit moved down. -/
theorem shiftedOutLeft_eq_zero_or_one : shiftedOutLeft a = 0 ∨ shiftedOutLeft a = 1 :=
  shiftedOutRight_eq_zero_or_one (a >>> 7)

end

/-- A flag written last is 0 or 1 in VF (41_register_alu.md R144). -/
theorem State.getV_regF_resultThenFlag_flagByte (s : State) (x : Reg) (result : Byte) (c : Bool) :
    (s.resultThenFlag x result (flagByte c)).getV regF = 0 ∨
      (s.resultThenFlag x result (flagByte c)).getV regF = 1 := by
  rw [State.getV_regF_resultThenFlag]
  exact flagByte_eq_zero_or_one c

/-! ## Loads and operations that write Vx alone -/

/-- Settles O23: both loads are one register write, of the immediate or of Vy's old value. -/
theorem loadImmediateAndCopy : Obligations.LoadImmediateAndCopy :=
  ⟨decodesAs_xkk 0x6 .ldVxKK fun _ _ => rfl, decodesAs_xy 0x8 0x0 .ldVxVy fun _ _ => rfl,
    fun x kk s => ⟨_, rfl, s.getV_setV_same x kk, s.setV_frame_but x _⟩,
    fun x _ s => ⟨_, rfl, s.getV_setV_same x _, s.setV_frame_but x _⟩⟩

/-- Settles O24: one register write, of the sum as BitVec addition wraps it. -/
theorem addImmediateWritesNoFlag : Obligations.AddImmediateWritesNoFlag := by
  refine ⟨decodesAs_xkk 0x7 .addVxKK fun _ _ => rfl, fun x kk s => ⟨_, rfl, ?_, s.setV_frame_but x _⟩⟩
  rw [State.getV_setV_same]
  exact BitVec.toNat_add ..

/-- Settles O25: one register write each, whose value has the bits of the operation. -/
theorem bitwiseOperations : Obligations.BitwiseOperations := fun x _ s =>
  ⟨⟨_, rfl, s.setV_bits x fun _ _ => BitVec.getLsbD_or⟩, ⟨_, rfl, s.setV_bits x fun _ _ => BitVec.getLsbD_and⟩,
    ⟨_, rfl, s.setV_bits x fun _ _ => BitVec.getLsbD_xor⟩⟩

/-- Settles O29: RND writes the sampled byte; `State.sample` says which byte a STEP samples. -/
theorem randomByteIsMasked : Obligations.RandomByteIsMasked := by
  refine ⟨fun x kk s => ⟨_, rfl, s.getV_setV_same x _, s.setV_frame_but x _⟩,
    fun s p x kk hx => ⟨_, step_of_executes hx, ?_⟩, fun s x kk hx => ⟨_, step_of_executes hx, ?_⟩⟩ <;>
    rw [State.getV_setV_same, State.randByte, State.execStart_env]
  · rfl
  · rw [State.sample_none_of_samples _ rfl]; rfl

/-! ## Operations that write Vx and the flag -/

/-- Settles O26, by `State.resultThenFlag_effect` with the sum as BitVec addition wraps it. -/
theorem addSetsCarry : Obligations.AddSetsCarry := fun x _ s =>
  ⟨_, rfl, s.resultThenFlag_effect x (BitVec.toNat_add ..) (toNat_carryFlag ..)⟩

/-- Settles O27: SUBN is SUB with the operands exchanged. -/
theorem subtractSetsNoBorrow : Obligations.SubtractSetsNoBorrow := fun x _ s =>
  ⟨⟨_, rfl, s.resultThenFlag_effect x (byte_toNat_sub ..) (toNat_noBorrowFlag ..)⟩,
    ⟨_, rfl, s.resultThenFlag_effect x (byte_toNat_sub ..) (toNat_noBorrowFlag ..)⟩⟩

/-- Settles O28, by `State.flagThenResult_effect`; y is not read. -/
theorem shiftsMoveOneBitIntoFlag : Obligations.ShiftsMoveOneBitIntoFlag := fun x _ s =>
  ⟨⟨_, rfl, s.flagThenResult_effect x (byte_toNat_shiftRight_one _) (toNat_shiftedOutRight _)⟩,
    ⟨_, rfl, s.flagThenResult_effect x (byte_toNat_shiftLeft_one _) (toNat_shiftedOutLeft _)⟩⟩

/-- Settles O30, instruction by instruction: VF is read back as the flag each one computes, which is 0 or 1. -/
theorem flagWritersLeaveZeroOrOne : Obligations.FlagWritersLeaveZeroOrOne := by
  intro x y n s t i hx hi h
  simp only [List.mem_cons, List.not_mem_nil, or_false] at hi
  obtain rfl | rfl | rfl | rfl | rfl | rfl := hi <;> cases h
  · exact s.getV_regF_resultThenFlag_flagByte ..
  · exact s.getV_regF_resultThenFlag_flagByte ..
  · rw [State.getV_regF_flagThenResult s hx]
    exact shiftedOutRight_eq_zero_or_one _
  · exact s.getV_regF_resultThenFlag_flagByte ..
  · rw [State.getV_regF_flagThenResult s hx]
    exact shiftedOutLeft_eq_zero_or_one _
  · rw [State.getV_setV_same]
    exact flagByte_eq_zero_or_one _

end Sys2Proof.Machine

/-! The proofs of the statements about the index register and memory (42_index_memory.md): first the values written as
numbers and what a store at a data address does, then each statement from these rules. -/

namespace Sys2Proof.Machine

/-! ## Values written to I -/

theorem zextAddress_toNat (a : Address) : (zextAddress a).toNat = a.toNat :=
  BitVec.toNat_setWidth_of_le (by decide)

theorem zextByte_toNat (b : Byte) : (zextByte b).toNat = b.toNat :=
  BitVec.toNat_setWidth_of_le (by decide)

theorem lowNibble_toNat (b : Byte) : (lowNibble b).toNat = b.toNat % 16 := by
  rw [lowNibble, BitVec.extractLsb'_toNat, Nat.shiftRight_zero]

/-- A glyph's address does not wrap: a digit is below 16 (42_index_memory.md R162). -/
theorem glyphAddress_toNat (digit : Nibble) : (glyphAddress digit).toNat = 0x050 + digit.toNat * 5 := by
  unfold glyphAddress; bv_omega

/-- I written, its value as a number: memory and all other state stay (10_state.md R26). -/
theorem State.setI_effect (s : State) {a : Word} {n : Nat} (ha : a.toNat = n) :
    (s.setI a).i.toNat = n ∧ ChangesOnlyI s (s.setI a) ∧ SameMemory s (s.setI a) :=
  ⟨ha, rfl, fun _ => rfl⟩

/-- Settles O31: one write of I each, of the value that the `toNat` lemmas above give. -/
theorem indexLoads : Obligations.IndexLoads := by
  refine ⟨decodesAs_nnn 0xA .ldI fun _ => rfl, decodesAs_x 0xF 0x1E .addIVx fun _ => rfl,
    decodesAs_x 0xF 0x29 .ldFVx fun _ => rfl, fun nnn s => ⟨_, rfl, s.setI_effect (zextAddress_toNat nnn)⟩,
    fun x s => ⟨⟨_, rfl, s.setI_effect ?_⟩, ⟨_, rfl, s.setI_effect ?_⟩⟩⟩
  · rw [BitVec.toNat_add, zextByte_toNat]
  · rw [glyphAddress_toNat, lowNibble_toNat]

/-! ## The decimal digits -/

section
variable (v : Byte)

theorem hundredsDigit_toNat : (hundredsDigit v).toNat = v.toNat / 100 := BitVec.toNat_udiv

theorem tensDigit_toNat : (tensDigit v).toNat = v.toNat / 10 % 10 := by
  rw [tensDigit, BitVec.toNat_umod, BitVec.toNat_udiv]; rfl

theorem unitsDigit_toNat : (unitsDigit v).toNat = v.toNat % 10 := BitVec.toNat_umod

end

/-- A byte stored at one data address, read at another: distinct offsets do not meet (42_index_memory.md R166). -/
theorem State.readByte_writeByte_effectiveAddress (s : State) {u : State} (h : Memory.wf u.font u.mem) {j k : Nat}
    (hj : j < 4096) (hk : k < 4096) (b : Byte) :
    (u.writeByte (s.effectiveAddress k) b).readByte (s.effectiveAddress j) =
      if j = k then b else u.readByte (s.effectiveAddress j) := by
  have hiff : s.effectiveAddress j = s.effectiveAddress k ↔ j = k :=
    ⟨State.effectiveAddress_inj hj hk, congrArg _⟩
  simp only [State.readByte_writeByte h, State.maskAddress_effectiveAddress, hiff]

/-- Three bytes stored from EA(0) on, read back at EA(j). -/
theorem State.readByte_three_stores {s : State} (h : Memory.wf s.font s.mem) (b₀ b₁ b₂ : Byte) {j : Nat} (hj : j < 4096) :
    (((s.writeByte (s.effectiveAddress 0) b₀).writeByte (s.effectiveAddress 1) b₁).writeByte
      (s.effectiveAddress 2) b₂).readByte (s.effectiveAddress j) =
      if j = 2 then b₂ else if j = 1 then b₁ else if j = 0 then b₀ else s.readByte (s.effectiveAddress j) := by
  have hwf₁ := State.writeByte_wf h (s.effectiveAddress 0) b₀
  have hwf₂ := State.writeByte_wf (s := s.writeByte ..) hwf₁ (s.effectiveAddress 1) b₁
  rw [s.readByte_writeByte_effectiveAddress (u := (s.writeByte ..).writeByte ..) hwf₂ hj (by decide),
    s.readByte_writeByte_effectiveAddress (u := s.writeByte ..) hwf₁ hj (by decide),
    s.readByte_writeByte_effectiveAddress h hj (by decide)]

/-- Settles O32: each digit is read back where it was stored, and a byte that changes is at one of the three addresses. -/
theorem storeDecimalDigits : Obligations.StoreDecimalDigits := by
  refine ⟨decodesAs_x 0xF 0x33 .ldBVx fun _ => rfl, fun x s hwf => ⟨_, rfl, rfl, ?_, ?_, ?_, fun a ha => ?_⟩⟩
  · exact (congrArg _ (State.readByte_three_stores hwf _ _ _ (by decide))).trans (hundredsDigit_toNat _)
  · exact (congrArg _ (State.readByte_three_stores hwf _ _ _ (by decide))).trans (tensDigit_toNat _)
  · exact (congrArg _ (State.readByte_three_stores hwf _ _ _ (by decide))).trans (unitsDigit_toNat _)
  · by_contra hne
    obtain ⟨k, hk, hak⟩ := exists_effectiveAddress_of_execLdBVx_ne (x := x) rfl hwf hne
    exact ha k hk hak

/-! ## Block copies -/

/-- Settles O33, by what a block store of x + 1 registers does as reads see it. -/
theorem storeRegisterBlock : Obligations.StoreRegisterBlock := by
  refine ⟨decodesAs_x 0xF 0x55 .ldMemVx fun _ => rfl, fun x s hwf =>
    ⟨s.storeRegs (blockLength x), rfl, s.storeRegs_frame _, fun k hk => ?_, fun a ha => ?_⟩⟩
  · exact State.readByte_storeRegs_blockLength hwf hk (s.maskAddress_effectiveAddress _)
  · exact (State.readByte_storeRegs hwf (blockLength_le x)).2 a fun k hk => ha k (Nat.le_of_lt_succ hk)

/-- Settles O34, by what a block load of x + 1 registers does as register reads see it. -/
theorem loadRegisterBlock : Obligations.LoadRegisterBlock := by
  refine ⟨decodesAs_x 0xF 0x65 .ldVxMem fun _ => rfl, fun x s =>
    ⟨s.loadRegs (blockLength x), rfl, s.loadRegs_frame _, fun a => ?_, fun k => ?_⟩⟩
  · rw [State.loadRegs_frame]; rfl
  · simpa only [blockLength, Nat.lt_succ_iff] using s.getV_loadRegs (blockLength_le x) k

end Sys2Proof.Machine

/-! The proofs of the statements about the framebuffer (43_display.md): first what CLS, DRW and each command do to cells,
then each statement from these rules. -/

namespace Sys2Proof.Machine

/-! ## CLS -/

@[simp] theorem cellAt_zero (c r : Nat) : cellAt 0 c r = false := BitVec.getLsbD_zero

/-- Settles O35: CLS writes the empty framebuffer, whose every cell reads as unlit. -/
theorem clearScreenUnlightsAll : Obligations.ClearScreenUnlightsAll :=
  ⟨decodesAs_none (i := .cls), fun _ => ⟨_, rfl, fun c _ r _ => cellAt_zero c r, rfl, fun _ => rfl⟩⟩

/-! ## DRW -/

/-- A covered column is on the grid, since columns wrap (43_display.md R181). -/
theorem SpriteCovers.column_lt {x0 y0 : Byte} {sprite : Nat → Byte} {n c r : Nat}
    (h : SpriteCovers x0 y0 sprite n c r) : c < 64 := by
  obtain ⟨-, -, col, -, rfl, -⟩ := h
  exact drawColumn_lt x0 col

section
variable (s : State) (x y : Reg) (n : Nibble)

/-- The state that DRW Vx, Vy, n answers from `s`. -/
def State.drawn : State :=
  (s.setFb (s.drawSprite (s.getV x) (s.getV y) n).fb).setV regF (collisionFlag (s.drawSprite (s.getV x) (s.getV y) n).hit)

theorem exec_drw : exec (.drw x y n) s = .next (s.drawn x y n) := rfl

open Classical in
/-- A draw flips the covered cells (43_display.md R181, R182). -/
theorem State.cellAt_drawn {c : Nat} (hc : c < 64) (r : Nat) :
    cellAt (s.drawn x y n).fb c r = (cellAt s.fb c r ^^ decide (s.DrawCovers x y n c r)) :=
  (drawRows_spec _ _ _ _ (Nat.le_of_lt n.isLt)).1 c hc r

/-- Some covered cell is lit. -/
def State.DrawCollides : Prop := ∃ c r, s.DrawCovers x y n c r ∧ cellAt s.fb c r = true

/-- The draw collects a hit exactly when a covered cell was lit before it (43_display.md R182). -/
theorem State.drawSprite_hit : (s.drawSprite (s.getV x) (s.getV y) n).hit = true ↔ s.DrawCollides x y n := by
  refine (drawRows_spec _ _ _ _ (Nat.le_of_lt n.isLt)).2.trans ?_
  constructor
  · rintro (hit | ⟨row, hrow, col, hcol, hbit, hlit⟩)
    · cases hit
    · exact ⟨_, _, ⟨row, hrow, col, hcol, rfl, rfl, hbit⟩, hlit⟩
  · rintro ⟨c, r, ⟨row, hrow, col, hcol, rfl, rfl, hbit⟩, hlit⟩
    exact .inr ⟨row, hrow, col, hcol, hbit, hlit⟩

open Classical in
/-- VF after a draw is the collision (43_display.md R181). -/
theorem State.getV_regF_drawn : (s.drawn x y n).getV regF = if s.DrawCollides x y n then 1 else 0 := by
  rw [State.drawn, State.getV_setV_same, collisionFlag, flagByte]
  simp only [s.drawSprite_hit x y n]

variable {x y}

/-- A draw that does not write its own coordinates leaves the sprite where it was. -/
theorem State.drawCovers_drawn (hx : x ≠ regF) (hy : y ≠ regF) : (s.drawn x y n).DrawCovers x y n = s.DrawCovers x y n := by
  have hvx : (s.drawn x y n).getV x = s.getV x := (State.getV_setV ..).trans (if_neg hx)
  have hvy : (s.drawn x y n).getV y = s.getV y := (State.getV_setV ..).trans (if_neg hy)
  funext c r
  rw [State.DrawCovers, hvx, hvy]
  rfl

end

/-- Settles O36: a draw flips the cells by `State.cellAt_drawn`, and VF by `State.getV_regF_drawn`. -/
theorem drawFlipsCoveredCells : Obligations.DrawFlipsCoveredCells := by
  intro x y n s
  refine ⟨s.drawn x y n, exec_drw s x y n, fun c hc r _ => ?_, fun hhit => ?_, fun hmiss => ?_, ?_, rfl, fun _ => rfl⟩
  · rw [s.cellAt_drawn x y n hc r]
    exact ⟨fun hcov => by simp [hcov], fun hcov => by simp [hcov]⟩
  · exact (s.getV_regF_drawn x y n).trans (if_pos hhit)
  · refine (s.getV_regF_drawn x y n).trans (if_neg ?_)
    rintro ⟨c, r, hcov, hlit⟩
    exact Bool.eq_false_iff.mp (hmiss c r hcov) hlit
  · exact fun r hr => exec_getV_of_not_writesV (exec_drw s x y n) (by simpa [writesV] using hr)

/-- Settles O37: both draws cover the same cells, and a covered cell that the first draw lit is a hit of the second. -/
theorem drawTwiceRestores : Obligations.DrawTwiceRestores := by
  intro x y n s hx hy
  have hcovers := s.drawCovers_drawn n hx hy
  refine ⟨_, _, exec_drw s x y n, exec_drw (s.drawn x y n) x y n, fun c hc r _ => ?_, ?_⟩
  · rw [State.cellAt_drawn _ x y n hc, State.cellAt_drawn _ x y n hc, hcovers, Bool.xor_assoc, Bool.xor_self,
      Bool.xor_false]
  · rintro ⟨c, r, hcov⟩ hfirst
    have hnone : ¬s.DrawCollides x y n := fun hhit => by
      rw [State.getV_regF_drawn, if_pos hhit] at hfirst
      cases hfirst
    have hunlit : cellAt s.fb c r = false := Bool.eq_false_iff.mpr fun hlit => hnone ⟨c, r, hcov, hlit⟩
    have hlit : cellAt (s.drawn x y n).fb c r = true := by
      rw [State.cellAt_drawn _ x y n hcov.column_lt, hunlit]
      simp [hcov]
    rw [State.getV_regF_drawn, if_pos ⟨c, r, hcovers ▸ hcov, hlit⟩]

/-! ## What changes the framebuffer -/

theorem eq_cls_or_drw_of_mayWrite {i : Instr} (h : mayWrite i .fb = true) : i = .cls ∨ ∃ x y n, i = .drw x y n := by
  cases i with
  | cls => exact .inl rfl
  | drw x y n => exact .inr ⟨x, y, n, rfl⟩
  | _ => cases h

theorem exec_fb {i : Instr} {s t : State} (h : exec i s = .next t) : t.fb = if mayWrite i .fb then t.fb else s.fb :=
  congrArg State.fb (exec_frame h)

/-- Among the instructions only CLS and DRW change the framebuffer (10_state.md R33). -/
theorem exec_fb_eq_or_draws {i : Instr} {s t : State} (h : exec i s = .next t) :
    t.fb = s.fb ∨ i = .cls ∨ ∃ x y n, i = .drw x y n := by
  by_cases hw : mayWrite i .fb = true
  · exact .inr (eq_cls_or_drw_of_mayWrite hw)
  · exact .inl ((exec_fb h).trans (if_neg hw))

theorem State.loadCommand_fb (s : State) (data : List Byte) : (s.loadCommand data).fb = s.fb := by
  unfold State.loadCommand
  split
  · rfl
  · rw [State.writeBytes_frame]; rfl

theorem State.keyCommand_fb (s : State) (k : Nibble) : (s.keyCommand k).fb = s.fb := by
  unfold State.keyCommand
  split <;> rfl

theorem State.sample_fb (s : State) (g : Option Inputs) (i : Instr) : (s.sample g i).fb = s.fb := by
  rw [State.sample_frame]; rfl

/-- Everything one step can do to the framebuffer: nothing, unless it is a RESET or a STEP of CLS or DRW. -/
theorem step_fb {s t : State} (h : step s = .next t) :
    t.fb = s.fb ∨ s.env.nextCommand = .reset ∨
      ∃ g i, s.Executes g i ∧ (i = .cls ∨ ∃ x y n, i = .drw x y n) := by
  obtain ⟨hc, e⟩ | ⟨data, -, e⟩ | ⟨-, e⟩ | ⟨k, -, e⟩ | ⟨g, x, -, -, e⟩ | ⟨g, w, -, -, -, e⟩ | ⟨g, i, hc, hl, hd, e⟩ :=
    step_cases s <;> rw [e] at h
  · exact .inr (.inl hc)
  · cases h
    exact .inl (State.loadCommand_fb ..)
  · cases h
    exact .inl rfl
  · cases h
    exact .inl (State.keyCommand_fb ..)
  · cases h
    exact .inl rfl
  · cases h
    exact .inl rfl
  · refine (exec_fb_eq_or_draws h).imp (·.trans (State.sample_fb ..)) fun hi => ?_
    exact .inr ⟨g, i, ⟨⟨hc, hl⟩, hd⟩, hi⟩

/-- Settles O59: the port is the framebuffer word itself, and a step that keeps the word keeps every cell. -/
theorem framebufferChangesOnlyByDrawing : Obligations.FramebufferChangesOnlyByDrawing := by
  refine ⟨fun _ _ _ _ _ => rfl, fun s t h hchanged => (step_fb h).resolve_left fun hfb => ?_⟩
  obtain ⟨c, -, r, -, hne⟩ := hchanged
  exact hne (congrArg (cellAt · c r) hfb)

end Sys2Proof.Machine

/-! The proofs of the statements about keys, timers and the wait-key latch (44_keys_timers.md): first what a STEP keeps, then
what a skip on a key, a TICK and a KEY do, each with the statements that follow from it. -/

namespace Sys2Proof.Machine

/-! ## The state that a STEP hands to `exec` -/

section
variable (s : State) (g : Option Inputs) (i : Instr)

@[simp] theorem State.execStart_v : (s.execStart g i).v = s.v := by rw [State.execStart_frame]
@[simp] theorem State.execStart_out : (s.execStart g i).out = { s.out.quiet with missWord := s.fetch } := by
  rw [State.execStart_frame]

theorem State.getV_execStart (r : Reg) : (s.execStart g i).getV r = s.getV r := State.getV_congr (s.execStart_v g i) r

variable {s}

/-- A STEP leaves the command after it as the next one (log 2). -/
theorem State.nextCommand_execStart {c₀ c : Command} {rest : List Command} (h : s.env.script = c₀ :: c :: rest) :
    (s.execStart g i).env.nextCommand = c := by
  rw [State.execStart_env, Environment.nextCommand, State.sample_script]
  simp [Environment.issued, h]

end

/-! ## The skips on a key -/

/-- The key asked about is the one Vx's low nibble names (44_keys_timers.md R192; D16, log 16). -/
theorem State.keyHeld_lowNibble (s : State) (b : Byte) :
    s.keyHeld (lowNibble b) = s.env.inputs.keyHeld.getLsbD (b.toNat % 16) := by
  rw [State.keyHeld, lowNibble_toNat]

theorem State.toNat_skipIf_not (s : State) (c : Bool) :
    (s.skipIf !c).pc.toNat = if c then s.pc.toNat else (s.pc.toNat + 2) % 4096 := by
  cases c
  · exact s.toNat_advance
  · rfl

/-- Settles O38: SKP skips on the key's bit, SKNP on its negation. -/
theorem skipOnKey : Obligations.SkipOnKey := by
  intro x s
  have hskp := s.changesOnlyPc_skipIf (s.keyHeld (lowNibble (s.getV x)))
  have hsknp := s.changesOnlyPc_skipIf !(s.keyHeld (lowNibble (s.getV x)))
  rw [← State.keyHeld_lowNibble]
  exact ⟨⟨_, rfl, hskp, hskp.sameMemory, s.toNat_skipIf _⟩, ⟨_, rfl, hsknp, hsknp.sameMemory, s.toNat_skipIf_not _⟩⟩

/-! ## The timers -/

/-- Settles O39: one register write and one timer write; only the latter's instruction may change DT. -/
theorem delayTimerTransfers : Obligations.DelayTimerTransfers := by
  refine ⟨decodesAs_x 0xF 0x07 .ldVxDT fun _ => rfl, decodesAs_x 0xF 0x15 .ldDTVx fun _ => rfl,
    fun x s => ⟨_, rfl, s.getV_setV_same x s.dt, s.setV_frame_but x s.dt⟩, fun x s => ⟨_, rfl, rfl, rfl, fun _ => rfl⟩,
    fun i s t h hraised => (exec_dt_eq_or_load h).resolve_left fun hsame => ?_⟩
  rw [hsame] at hraised
  exact absurd hraised (Nat.lt_irrefl _)

/-- Settles O40: a STEP has cleared audio_valid before LD ST, Vx runs, and the load writes no report. -/
theorem soundTimerLoad : Obligations.SoundTimerLoad := by
  refine ⟨fun x s => ⟨_, rfl, rfl, rfl, fun _ => rfl⟩, fun s g x hx => ⟨_, step_of_executes hx, ?_, ?_⟩⟩
  · rw [State.setSt_out, State.execStart_out]; rfl
  · exact s.getV_execStart g _ x

/-- One decrement, never below 0, as truncated subtraction (44_keys_timers.md R203). -/
theorem toNat_countDown (b : Byte) : (countDown b).toNat = b.toNat - 1 := by
  unfold countDown
  split <;> bv_omega

/-- Settles O43: TICK writes the timers and the reports, each timer by `toNat_countDown`. -/
theorem tickCountsDown : Obligations.TickCountsDown := by
  intro s hc
  exact ⟨_, step_of_nextCommand hc, toNat_countDown s.dt, toNat_countDown s.st, rfl, beq_iff_eq, rfl, rfl, rfl, rfl,
    fun _ => rfl⟩

/-- One decrement more is one more taken from the truncated difference. -/
theorem toNat_countDown_of_sub {b : Byte} {n k : Nat} (h : b.toNat = n - k) : (countDown b).toNat = n - (k + 1) := by
  rw [toNat_countDown, h, Nat.sub_sub]

/-- Settles O44, by induction on the number of TICKs. -/
theorem ticksReachZero : Obligations.TicksReachZero := by
  intro s k
  induction k with
  | zero => exact ⟨rfl, rfl⟩
  | succ k ih =>
    obtain ⟨hdt, hst⟩ := ih
    exact ⟨toNat_countDown_of_sub hdt, toNat_countDown_of_sub hst⟩

/-! ## The wait-key latch -/

/-- Settles O41: LD Vx, K writes the latch alone, after the advance of its STEP. -/
theorem waitForKeySetsLatch : Obligations.WaitForKeySetsLatch :=
  ⟨fun _ _ => ⟨_, rfl, rfl, rfl, fun _ => rfl⟩,
    fun s g _ hx => ⟨_, step_of_executes hx, rfl, s.toNat_execStart_pc g _, s.execStart_v g _⟩⟩

section
variable {s : State} (k : Nibble)

/-- A KEY while a register waits: it gets the key, and the wait ends (44_keys_timers.md R199). -/
theorem State.keyCommand_of_waiting {x : Reg} (h : s.latch = some x) :
    s.keyCommand k = ((s.setV x (k.setWidth 8)).setLatch none).setOut s.out.quiet := by
  simp [State.keyCommand, h]

/-- A KEY while no register waits (44_keys_timers.md R199; D14, log 15). -/
theorem State.keyCommand_of_run (h : s.latch = none) : s.keyCommand k = s.setOut s.out.quiet := by
  simp [State.keyCommand, h]

/-- The waiting register ends as the delivered key, zero-extended (44_keys_timers.md R199, R200). -/
theorem State.toNat_getV_keyCommand {x : Reg} (h : s.latch = some x) : ((s.keyCommand k).getV x).toNat = k.toNat := by
  have hget : (s.keyCommand k).getV x = k.setWidth 8 := by
    rw [State.keyCommand_of_waiting k h]
    exact s.getV_setV_same x _
  rw [hget, BitVec.toNat_setWidth_of_le (by decide)]

/-- A KEY writes no register but the waiting one. -/
theorem State.sameRegistersBut_keyCommand {x : Reg} (h : s.latch = some x) :
    SameRegistersBut [x] s (s.keyCommand k) := by
  rw [State.keyCommand_of_waiting k h]
  exact (s.setV_frame_but x _).1

end

/-- Settles O45, by the two cases of a KEY: a register waits, or none does. -/
theorem keyDelivery : Obligations.KeyDelivery := by
  intro s k hc
  rw [step_of_nextCommand hc]
  refine ⟨fun x hl => ⟨(s.setEnv s.env.issued).keyCommand k, rfl, ?_, ?_, ?_⟩, fun hl => ?_⟩
  · exact State.toNat_getV_keyCommand k hl
  · exact State.sameRegistersBut_keyCommand (s := s.setEnv s.env.issued) k hl
  · rw [State.keyCommand_of_waiting (s := s.setEnv s.env.issued) k hl]; rfl
  · exact congrArg _ (State.keyCommand_of_run (s := s.setEnv s.env.issued) k hl)

/-- Settles O42: the STEP of LD Vx, K leaves x waiting and the KEY as the next command, which `keyDelivery` describes. -/
theorem keyEndsWait : Obligations.KeyEndsWait := by
  intro s g x k rest hx hscript
  have hnext : ((s.execStart g (.ldVxK x)).setLatch (some x)).env.nextCommand = .key k :=
    State.nextCommand_execStart g _ hscript
  obtain ⟨u, hu, hkey, hregs, hframe⟩ := (keyDelivery _ k hnext).1 x rfl
  refine ⟨_, u, step_of_executes hx, hu, ?_, hkey, ?_, fun r hr => ?_, fun a => ?_⟩
  · rw [hframe]
  · rw [hframe]
    exact s.toNat_execStart_pc g _
  · exact (hregs r hr).trans (s.getV_execStart g _ r)
  · rw [hframe, State.execStart_frame]; rfl

end Sys2Proof.Machine

/-! The proofs of the statements about exceptions (60_exceptions.md): first that every instruction answers a next state, then
what each command does to PC. -/

namespace Sys2Proof.Machine

/-! ## Every step completes -/

/-- No instruction faults or is refused: each arm of `exec` is a `.next`, CALL on a full stack too (60_exceptions.md R210,
40_control_flow.md R106). -/
theorem exec_answers (i : Instr) (s : State) : ∃ t, exec i s = .next t := by
  cases i with
  | call nnn => exact ⟨_, exec_call nnn s⟩
  | _ => exact ⟨_, rfl⟩

/-- Settles O11: a command that runs no instruction is total by definition, and a STEP of one by `exec_answers`. -/
theorem stepAlwaysAnswers : Obligations.StepAlwaysAnswers := by
  intro s
  obtain ⟨-, e⟩ | ⟨data, -, e⟩ | ⟨-, e⟩ | ⟨k, -, e⟩ | ⟨g, x, -, -, e⟩ | ⟨g, w, -, -, -, e⟩ | ⟨g, i, -, -, -, e⟩ :=
    step_cases s
  iterate 6 · exact ⟨_, e⟩
  · rw [e]
    exact exec_answers i _

/-! ## What moves PC -/

theorem State.loadCommand_pc (s : State) (data : List Byte) : (s.loadCommand data).pc = s.pc := by
  unfold State.loadCommand
  split
  · rfl
  · rw [State.writeBytes_frame]; rfl

theorem State.keyCommand_pc (s : State) (k : Nibble) : (s.keyCommand k).pc = s.pc := by
  unfold State.keyCommand
  split <;> rfl

/-- Settles O58: LOAD, TICK, KEY and a STEP in a wait leave PC, and the other transactions are those of the conclusion. -/
theorem onlyStepAndResetMovePc : Obligations.OnlyStepAndResetMovePc := by
  intro s t h hmoved
  obtain ⟨hc, -⟩ | ⟨data, -, e⟩ | ⟨-, e⟩ | ⟨k, -, e⟩ | ⟨g, x, -, -, e⟩ | ⟨g, w, hc, hl, -, -⟩ | ⟨g, i, hc, hl, -, -⟩ :=
    step_cases s
  · exact .inl hc
  · cases e.symm.trans h
    exact absurd (State.loadCommand_pc ..) hmoved
  · cases e.symm.trans h
    exact absurd rfl hmoved
  · cases e.symm.trans h
    exact absurd (State.keyCommand_pc ..) hmoved
  · cases e.symm.trans h
    exact absurd rfl hmoved
  · exact .inr ⟨g, hc, hl⟩
  · exact .inr ⟨g, hc, hl⟩

end Sys2Proof.Machine

/-! The proofs of the statements about RESET and LOAD (70_reset_and_hazards.md): first the machine right after RESET, then
what a LOAD does to memory, then the LOAD that boots a program. -/

namespace Sys2Proof.Machine

/-! ## RESET -/

theorem maskAddress_of_lt {a : Nat} (h : a < 4096) : maskAddress a = a := Nat.mod_eq_of_lt h

/-- After RESET the font range holds FONT (10_state.md R36). -/
theorem State.readByte_resetWith_font (f : Font) (j : Fin 80) :
    (State.resetWith f).readByte (0x050 + j.val) = f[j.val]'j.isLt := by
  rw [State.readByte_resetWith, maskAddress_of_lt (by omega), Memory.unlisted_font]

/-- After RESET every byte outside the font range is 0 (10_state.md R36). -/
theorem State.readByte_resetWith_outside (f : Font) {a : Nat} (ha : a < 4096) (h : a < 0x050 ∨ 0x0A0 ≤ a) :
    (State.resetWith f).readByte a = 0x00 := by
  rw [State.readByte_resetWith, maskAddress_of_lt ha, Memory.unlisted_outside f h]

theorem State.getV_resetWith (f : Font) (x : Reg) : (State.resetWith f).getV x = 0 := Vector.getElem_replicate _

/-- Settles O48: PC and the latch are fields of the reset state, the font bytes by `State.readByte_resetWith_font`. -/
theorem resetEntryPointAndFont : Obligations.ResetEntryPointAndFont :=
  ⟨rfl, fun font => ⟨rfl, rfl, State.readByte_resetWith_font font⟩⟩

/-- Settles O47: RESET answers the reset state of the machine's own FONT, which reads as the lemmas above say. -/
theorem resetCommandRecreatesState : Obligations.ResetCommandRecreatesState := by
  intro s hc
  exact ⟨_, step_of_nextCommand hc, rfl, rfl, rfl, rfl, rfl, rfl, State.getV_resetWith s.font,
    fun _ => Vector.getElem_replicate _, fun c _ r _ => cellAt_zero c r, rfl, State.readByte_resetWith_font s.font,
    fun _ => State.readByte_resetWith_outside s.font, rfl, rfl, rfl, rfl⟩

/-! ## LOAD -/

section
variable {s : State} {data : List Byte}

/-- A LOAD changes memory and the reports alone (70_reset_and_hazards.md R243; D20, log 15). -/
theorem State.loadCommand_frame (s : State) (data : List Byte) :
    s.loadCommand data = { s with mem := (s.loadCommand data).mem, out := (s.loadCommand data).out } := by
  unfold State.loadCommand
  split
  · rfl
  · rw [State.writeBytes_frame]; rfl

/-- A LOAD above MAX_LOAD copies nothing (70_reset_and_hazards.md R242). -/
theorem State.loadCommand_mem_of_long (h : 3584 < data.length) : (s.loadCommand data).mem = s.mem := by
  rw [State.loadCommand, if_pos h]; rfl

variable (hwf : Memory.wf s.font s.mem) (hfits : data.length ≤ 3584)
include hwf hfits

/-- What a LOAD that fits does, as reads see it: `data` from PROG_BASE on, all else as before. -/
theorem State.readByte_loadCommand {a : Nat} (ha : a < 4096) : (s.loadCommand data).readByte a =
    if 0x200 ≤ a then (data[a - 0x200]?).getD (s.readByte a) else s.readByte a := by
  rw [State.loadCommand, if_neg (by omega)]
  exact State.readByte_writeBytes data hwf (by omega) ha

theorem State.readByte_loadCommand_data {j : Nat} (hj : j < data.length) :
    (s.loadCommand data).readByte (0x200 + j) = data[j] := by
  rw [State.readByte_loadCommand hwf hfits (by omega), if_pos (by omega), Nat.add_sub_cancel_left,
    List.getElem?_eq_getElem hj, Option.getD_some]

theorem State.readByte_loadCommand_outside {a : Nat} (ha : a < 4096) (h : a < 0x200 ∨ 0x200 + data.length ≤ a) :
    (s.loadCommand data).readByte a = s.readByte a := by
  rw [State.readByte_loadCommand hwf hfits ha]
  split
  · rw [List.getElem?_eq_none (by omega), Option.getD_none]
  · rfl

end

/-- Settles O46: the reports by `State.loadCommand_out`, memory by the rule for each of the two lengths. -/
theorem loadCopiesOrRejects : Obligations.LoadCopiesOrRejects := by
  intro s data hwf hc
  refine ⟨(s.setEnv s.env.issued).loadCommand data, step_of_nextCommand hc, fun hlong => ⟨?_, ?_⟩,
    fun hfits => ⟨?_, fun j hj => ?_, fun a ha hout => ?_⟩, ?_, ?_, ?_⟩
  · simpa [State.loadCommand_out] using hlong
  · exact State.loadCommand_mem_of_long hlong
  · simpa [State.loadCommand_out] using hfits
  · exact State.readByte_loadCommand_data (s := s.setEnv s.env.issued) hwf hfits hj
  · exact State.readByte_loadCommand_outside (s := s.setEnv s.env.issued) hwf hfits ha hout
  · rw [State.loadCommand_out]; rfl
  · rw [State.loadCommand_out]; rfl
  · exact State.loadCommand_frame ..

/-! ## Booting a program -/

/-- Settles O49: `loadCopiesOrRejects` from the reset state, whose PC is the address of the program's first byte. -/
theorem bootFetchesProgram : Obligations.BootFetchesProgram := by
  intro font b c data rest hlen
  obtain ⟨t, hstep, -, hcopied, -, -, hframe⟩ := loadCopiesOrRejects
    ((State.resetWith font).setEnv { Environment.reset with script := .load (b :: c :: data) :: rest }) (b :: c :: data)
    Memory.wf_nil rfl
  obtain ⟨hok, hbytes, -⟩ := hcopied hlen
  have hpc : t.pc = 0x200 := by rw [hframe]; rfl
  have hfirst : t.readByte 0x200 = b := hbytes 0 (by simp)
  have hsecond : t.readByte 0x201 = c := hbytes 1 (by simp)
  have hfetch : t.fetch = b ++ c := by
    rw [State.fetch, hpc]
    exact congrArg₂ bytesWord hfirst hsecond
  exact ⟨t, hstep, hok, hpc, by rw [hframe]; rfl, hfetch, by rw [hframe]; rfl⟩

end Sys2Proof.Machine
